-- ==== Sys2Proof/Config.lean ====
section
/-! DEFINITION. What the hardware fixes once and for all (00_scope.md R4): every parameter of its table, each stated in
this one place and read by every type, operation and reset value that depends on it; the reset contents of memory; and
the one free value, the rand byte. A parameter the table derives from others is computed from them here. The two OPEN
parameters, STEPS_PER_TICK and CYCLES_PER_CMD, have no value in any source and nothing reads them, so they are not here. -/

namespace Sys2Proof.Config

/-! ## Memory -/

/-- MEM_SIZE: bytes of main memory (R4, R25). -/
@[simp] abbrev memSize : Nat := 4096

/-- The last address of main memory, 0xFFF (R50). -/
@[simp] abbrev lastAddr : Nat := memSize - 1

/-- PROG_BASE: address of the first program byte and reset value of pc (R4, R23, R51, R230). -/
@[simp] abbrev progBase : Nat := 0x200

/-- RESERVED_END: last address of the reserved area, 0x1FF (R4). The area is not protected, so no operation reads it
(20_memory.md R56). -/
@[simp] abbrev reservedEnd : Nat := progBase - 1

/-- MAX_PROG: the largest program LOAD accepts, MEM_SIZE - PROG_BASE = 3584 bytes (R4, R92). -/
@[simp] abbrev maxProg : Nat := memSize - progBase

/-- FONT_BASE: address of the first font byte (R4, R51). -/
@[simp] abbrev fontBase : Nat := 0x050

/-- FONT_LEN: font bytes, 16 glyphs of 5 (R4, R33). -/
@[simp] abbrev fontLen : Nat := 80

/-! ## Registers, stack, keypad, timers -/

/-- NREGS: general registers V0 to VF (R4, R20). -/
@[simp] abbrev nregs : Nat := 16

/-- I_WIDTH: bits of the index register (R4, R22). -/
@[simp] abbrev iWidth : Nat := 16

/-- PC_WIDTH: bits of the program counter (R4, R23). -/
@[simp] abbrev pcWidth : Nat := 16

/-- STACK_DEPTH: entries of the call stack (R4, R24). -/
@[simp] abbrev stackDepth : Nat := 16

/-- STACK_ENTRY_WIDTH: bits of a stack entry (R4, R24). -/
@[simp] abbrev stackEntryWidth : Nat := 16

/-- SP_WIDTH: bits of the stack pointer (R4, R24). State holds sp by its values 0 to STACK_DEPTH, which fit in them
(`Laws/State.lean`, spWidth_fits). -/
@[simp] abbrev spWidth : Nat := 5

/-- NKEYS: keypad keys (R4, R27). -/
@[simp] abbrev nkeys : Nat := 16

/-- TIMER_WIDTH: bits of each timer (R4, R28). -/
@[simp] abbrev timerWidth : Nat := 8

/-- TIMER_HZ: how many TICK commands a second the host owes (R4). A duty of the host that no rule of the core reads. -/
@[simp] abbrev timerHz : Nat := 60

/-! ## Framebuffer -/

/-- FB_W: framebuffer columns (R4, R26). -/
@[simp] abbrev fbW : Nat := 64

/-- FB_H: framebuffer rows (R4, R26). -/
@[simp] abbrev fbH : Nat := 32

/-- The number of pixels, FB_W * FB_H = 2048 (R4, R26). -/
@[simp] abbrev fbPixels : Nat := fbW * fbH

/-! ## Instructions -/

/-- INSTR_BYTES: bytes of an instruction (R4, R70). -/
@[simp] abbrev instrBytes : Nat := 2

/-- FX29_BASE: the constant FX29 adds (R4, R152; 92 D12, 90 C4).
UNVERIFIED, unsafe: log entry 7 (the spec keeps the document's formula and says an audit may make it 0x050). -/
def fx29Base : BitVec iWidth := 0x000#16

/-- FONT, glyphs 0 to 7 (R33). PRESUMED, unsafe: log entry 6. -/
def fontLow : List (BitVec 8) :=
  [0xF0, 0x90, 0x90, 0x90, 0xF0,  0x20, 0x60, 0x20, 0x20, 0x70,
   0xF0, 0x10, 0xF0, 0x80, 0xF0,  0xF0, 0x10, 0xF0, 0x10, 0xF0,
   0x90, 0x90, 0xF0, 0x10, 0x10,  0xF0, 0x80, 0xF0, 0x10, 0xF0,
   0xF0, 0x80, 0xF0, 0x90, 0xF0,  0xF0, 0x10, 0x20, 0x40, 0x40]

/-- FONT, glyphs 8 to F (R33). PRESUMED, unsafe: log entry 6. -/
def fontHigh : List (BitVec 8) :=
  [0xF0, 0x90, 0xF0, 0x90, 0xF0,  0xF0, 0x90, 0xF0, 0x10, 0xF0,
   0xF0, 0x90, 0xF0, 0x90, 0x90,  0xE0, 0x90, 0xE0, 0x90, 0xE0,
   0xF0, 0x80, 0x80, 0x80, 0xF0,  0xE0, 0x90, 0x90, 0x90, 0xE0,
   0xF0, 0x80, 0xF0, 0x80, 0xF0,  0xF0, 0x80, 0xF0, 0x80, 0x80]

/-- FONT[0..79], 16 glyphs of 5 bytes (R4, R33). -/
def font : List (BitVec 8) := fontLow ++ fontHigh

/-- What memory holds at an address right after RESET: the font from 0x050, zero elsewhere (R33, R91). It is what an
address that `State.mem` does not list reads as. -/
def resetByte (a : Nat) : BitVec 8 :=
  if a < fontBase then 0 else font.getD (a - fontBase) 0

/-- The rand byte the host presents with the n-th STEP for which the pending list names none: any byte, under no law
(40_step_cycle.md R102; 93 U2). A free value: no body, so nothing can be proved of what it is (log entry 3). -/
opaque freeRand : Nat → BitVec 8

end Sys2Proof.Config
end

