-- ==== Sys2Proof/Word.lean ====
section
/-! DEFINITION. The widths of the machine's data (00_scope.md R4 to R6): bytes, 16-bit words, 12-bit addresses and
register numbers. Every value is unsigned; arithmetic on a width wraps at that width. -/

namespace Sys2Proof

/-- An 8-bit value: a general register, a memory byte, a timer, an immediate NN (R20, R25, R28, R73). -/
abbrev Byte := BitVec 8

/-- A 16-bit value: I, pc, a stack entry, an opcode (R22, R23, R24, R29). -/
abbrev Word := BitVec 16

/-- The 12-bit immediate NNN (R71, R73). -/
abbrev Addr12 := BitVec 12

/-- The number of a general register, 0x0 to 0xF: the fields X and Y (R20, R71). -/
abbrev RegIdx := Fin Config.nregs

/-- The number of a key, 0x0 to 0xF (R27). -/
abbrev KeyIdx := Fin Config.nkeys

end Sys2Proof
end

