-- ==== Sys2Proof/Syntax.lean ====
section
/-! DEFINITION. The instructions: one constructor per row of spec/opcode_table.json, in its order (30_encoding.md R75).
Operands are typed by their field's width (R71): X and Y a register number, N 4 bits, NN 8 bits, NNN 12 bits. -/

namespace Sys2Proof

/-- The 34 instructions (30_encoding.md R75). -/
inductive Instr where
  /-- 00E0, CLS (R170) -/
  | cls
  /-- 00EE, RET (R112) -/
  | ret
  /-- 1NNN, JP NNN (R110) -/
  | jp (nnn : Addr12)
  /-- 2NNN, CALL NNN (R111) -/
  | call (nnn : Addr12)
  /-- 3XNN, SE VX, NN (R114) -/
  | seImm (x : RegIdx) (nn : Byte)
  /-- 4XNN, SNE VX, NN (R115) -/
  | sneImm (x : RegIdx) (nn : Byte)
  /-- 5XY0, SE VX, VY (R116) -/
  | seReg (x y : RegIdx)
  /-- 9XY0, SNE VX, VY (R117) -/
  | sneReg (x y : RegIdx)
  /-- 6XNN, LD VX, NN (R131) -/
  | ldImm (x : RegIdx) (nn : Byte)
  /-- 7XNN, ADD VX, NN (R132) -/
  | addImm (x : RegIdx) (nn : Byte)
  /-- 8XY0, LD VX, VY (R133) -/
  | ldReg (x y : RegIdx)
  /-- 8XY1, OR VX, VY (R134) -/
  | orReg (x y : RegIdx)
  /-- 8XY2, AND VX, VY (R135) -/
  | andReg (x y : RegIdx)
  /-- 8XY3, XOR VX, VY (R136) -/
  | xorReg (x y : RegIdx)
  /-- 8XY4, ADD VX, VY (R137) -/
  | addReg (x y : RegIdx)
  /-- 8XY5, SUB VX, VY (R138) -/
  | sub (x y : RegIdx)
  /-- 8XY6, SHR VX (R139); the Y field is ignored, and kept so that no bit of the opcode is dropped (R77) -/
  | shr (x y : RegIdx)
  /-- 8XY7, SUBN VX, VY (R140) -/
  | subn (x y : RegIdx)
  /-- 8XYE, SHL VX (R141); the Y field is ignored, as for 8XY6 -/
  | shl (x y : RegIdx)
  /-- ANNN, LD I, NNN (R150) -/
  | ldI (nnn : Addr12)
  /-- BNNN, JP V0, NNN (R113) -/
  | jpV0 (nnn : Addr12)
  /-- CXNN, RND VX, NN (R142) -/
  | rnd (x : RegIdx) (nn : Byte)
  /-- DXYN, DRW VX, VY, N (R171) -/
  | drw (x y : RegIdx) (n : BitVec 4)
  /-- EX9E, SKP VX (R180) -/
  | skp (x : RegIdx)
  /-- EXA1, SKNP VX (R181) -/
  | sknp (x : RegIdx)
  /-- FX07, LD VX, DT (R190) -/
  | ldVxDt (x : RegIdx)
  /-- FX15, LD DT, VX (R191) -/
  | ldDtVx (x : RegIdx)
  /-- FX18, LD ST, VX (R192) -/
  | ldStVx (x : RegIdx)
  /-- FX0A, LD VX, K (R182) -/
  | ldVxK (x : RegIdx)
  /-- FX1E, ADD I, VX (R151) -/
  | addI (x : RegIdx)
  /-- FX29, LD F, VX (R152) -/
  | ldF (x : RegIdx)
  /-- FX33, LD B, VX (R153) -/
  | ldB (x : RegIdx)
  /-- FX55, LD [I], VX (R154): stores V0 to VX -/
  | stRegs (x : RegIdx)
  /-- FX65, LD VX, [I] (R155): loads V0 to VX -/
  | ldRegs (x : RegIdx)
deriving DecidableEq, Repr

end Sys2Proof
end

