-- ==== Sys2Proof/WellFormed.lean ====
section
/-! DEFINITION. Which 16-bit opcodes are instructions: the 34 rows of 30_encoding.md R75 as masks and matches, and the
check that an opcode matches one of them (R74). An opcode that fails every row is a decode miss (R76).
Every term of `Instr` is well formed by its types: an operand cannot be wider than its field, and every value of a field
is an operand the spec allows (R73), so the check is one on opcodes. Decode.lean is written from the nibbles instead, so
that the two can be held against each other. -/

namespace Sys2Proof

/-- One row of the opcode map (R75): the instruction's mnemonic, its fixed bits and the mask that selects them. -/
structure OpcodeRow where
  mnemonic : String
  fixed : Word
  mask : Word
deriving DecidableEq, Repr

/-- R74: an opcode matches a row when `op & mask` is the row's fixed bits. -/
def OpcodeRow.matchesOp (r : OpcodeRow) (op : Word) : Bool := op &&& r.mask == r.fixed

/-- Rows of formats Z, A, XI and XYN, and of the two single-row XY families (R72, R75). -/
def opcodeRowsPrimary : List OpcodeRow :=
  [⟨"CLS", 0x00E0, 0xFFFF⟩, ⟨"RET", 0x00EE, 0xFFFF⟩, ⟨"JP", 0x1000, 0xF000⟩, ⟨"CALL", 0x2000, 0xF000⟩,
   ⟨"SE_IMM", 0x3000, 0xF000⟩, ⟨"SNE_IMM", 0x4000, 0xF000⟩, ⟨"SE_REG", 0x5000, 0xF00F⟩,
   ⟨"SNE_REG", 0x9000, 0xF00F⟩, ⟨"LD_IMM", 0x6000, 0xF000⟩, ⟨"ADD_IMM", 0x7000, 0xF000⟩]

/-- Rows of family 0x8 (R75). -/
def opcodeRowsAlu : List OpcodeRow :=
  [⟨"LD_REG", 0x8000, 0xF00F⟩, ⟨"OR", 0x8001, 0xF00F⟩, ⟨"AND", 0x8002, 0xF00F⟩, ⟨"XOR", 0x8003, 0xF00F⟩,
   ⟨"ADD_REG", 0x8004, 0xF00F⟩, ⟨"SUB", 0x8005, 0xF00F⟩, ⟨"SHR", 0x8006, 0xF00F⟩, ⟨"SUBN", 0x8007, 0xF00F⟩,
   ⟨"SHL", 0x800E, 0xF00F⟩]

/-- Rows of families 0xA to 0xF (R75). -/
def opcodeRowsHigh : List OpcodeRow :=
  [⟨"LD_I", 0xA000, 0xF000⟩, ⟨"JP_V0", 0xB000, 0xF000⟩, ⟨"RND", 0xC000, 0xF000⟩, ⟨"DRW", 0xD000, 0xF000⟩,
   ⟨"SKP", 0xE09E, 0xF0FF⟩, ⟨"SKNP", 0xE0A1, 0xF0FF⟩, ⟨"LD_VX_DT", 0xF007, 0xF0FF⟩,
   ⟨"LD_DT_VX", 0xF015, 0xF0FF⟩, ⟨"LD_ST_VX", 0xF018, 0xF0FF⟩, ⟨"LD_VX_K", 0xF00A, 0xF0FF⟩,
   ⟨"ADD_I", 0xF01E, 0xF0FF⟩, ⟨"LD_F", 0xF029, 0xF0FF⟩, ⟨"LD_B", 0xF033, 0xF0FF⟩, ⟨"ST_REGS", 0xF055, 0xF0FF⟩,
   ⟨"LD_REGS", 0xF065, 0xF0FF⟩]

/-- The opcode map, 34 rows in the order of R75. -/
def opcodeTable : List OpcodeRow := opcodeRowsPrimary ++ opcodeRowsAlu ++ opcodeRowsHigh

/-- The opcode is an instruction: it matches a row of the map (R74). Its negation is a decode miss (R76). -/
def opcodeWellFormed (op : Word) : Bool := opcodeTable.any (·.matchesOp op)

end Sys2Proof
end

