-- ==== Sys2Proof/Decode.lean ====
section
/-! DEFINITION. The decoder, from the nibbles of an opcode to an instruction (30_encoding.md R70 to R76), the encoder
written from the same patterns, and the assembler's names (R78). -/

namespace Sys2Proof

/-! ## Fields (00_scope.md R5, 30_encoding.md R71) -/

/-- The family selector, op[15:12]. -/
def fieldFamily (op : Word) : BitVec 4 := op.extractLsb' 12 4

/-- X = op[11:8], a register number. -/
def fieldX (op : Word) : RegIdx := (op.extractLsb' 8 4).toFin

/-- Y = op[7:4], a register number. -/
def fieldY (op : Word) : RegIdx := (op.extractLsb' 4 4).toFin

/-- N = op[3:0]. -/
def fieldN (op : Word) : BitVec 4 := op.extractLsb' 0 4

/-- NN = op[7:0]. -/
def fieldNN (op : Word) : Byte := op.extractLsb' 0 8

/-- NNN = op[11:0]. -/
def fieldNNN (op : Word) : Addr12 := op.extractLsb' 0 12

/-! ## Decoder -/

/-- Family 0x0: 00E0 and 00EE match all 16 bits (R74); any other 0NNN is a decode miss (R76). -/
def decodeFamily0 (op : Word) : Option Instr :=
  match fieldNNN op with
  | 0x0E0#12 => some .cls
  | 0x0EE#12 => some .ret
  | _ => none

/-- Family 0x8 dispatches on op[3:0] (R74). -/
def decodeFamily8 (op : Word) : Option Instr :=
  match fieldN op with
  | 0x0#4 => some (.ldReg (fieldX op) (fieldY op))
  | 0x1#4 => some (.orReg (fieldX op) (fieldY op))
  | 0x2#4 => some (.andReg (fieldX op) (fieldY op))
  | 0x3#4 => some (.xorReg (fieldX op) (fieldY op))
  | 0x4#4 => some (.addReg (fieldX op) (fieldY op))
  | 0x5#4 => some (.sub (fieldX op) (fieldY op))
  | 0x6#4 => some (.shr (fieldX op) (fieldY op))
  | 0x7#4 => some (.subn (fieldX op) (fieldY op))
  | 0xE#4 => some (.shl (fieldX op) (fieldY op))
  | _ => none

/-- Family 0xE dispatches on op[7:0] (R74). -/
def decodeFamilyE (op : Word) : Option Instr :=
  match fieldNN op with
  | 0x9E#8 => some (.skp (fieldX op))
  | 0xA1#8 => some (.sknp (fieldX op))
  | _ => none

/-- Family 0xF dispatches on op[7:0] (R74). -/
def decodeFamilyF (op : Word) : Option Instr :=
  match fieldNN op with
  | 0x07#8 => some (.ldVxDt (fieldX op))
  | 0x0A#8 => some (.ldVxK (fieldX op))
  | 0x15#8 => some (.ldDtVx (fieldX op))
  | 0x18#8 => some (.ldStVx (fieldX op))
  | 0x1E#8 => some (.addI (fieldX op))
  | 0x29#8 => some (.ldF (fieldX op))
  | 0x33#8 => some (.ldB (fieldX op))
  | 0x55#8 => some (.stRegs (fieldX op))
  | 0x65#8 => some (.ldRegs (fieldX op))
  | _ => none

/-- The instruction an opcode stands for, or none for a decode miss (R74, R76, R96). -/
def decode (op : Word) : Option Instr :=
  match fieldFamily op with
  | 0x0#4 => decodeFamily0 op
  | 0x1#4 => some (.jp (fieldNNN op))
  | 0x2#4 => some (.call (fieldNNN op))
  | 0x3#4 => some (.seImm (fieldX op) (fieldNN op))
  | 0x4#4 => some (.sneImm (fieldX op) (fieldNN op))
  | 0x5#4 => if fieldN op = 0 then some (.seReg (fieldX op) (fieldY op)) else none
  | 0x6#4 => some (.ldImm (fieldX op) (fieldNN op))
  | 0x7#4 => some (.addImm (fieldX op) (fieldNN op))
  | 0x8#4 => decodeFamily8 op
  | 0x9#4 => if fieldN op = 0 then some (.sneReg (fieldX op) (fieldY op)) else none
  | 0xA#4 => some (.ldI (fieldNNN op))
  | 0xB#4 => some (.jpV0 (fieldNNN op))
  | 0xC#4 => some (.rnd (fieldX op) (fieldNN op))
  | 0xD#4 => some (.drw (fieldX op) (fieldY op) (fieldN op))
  | 0xE#4 => decodeFamilyE op
  | 0xF#4 => decodeFamilyF op
  | _ => none

/-- Why bytes are no instruction. -/
inductive DecodeError where
  /-- fewer than the two bytes an instruction takes (R70) -/
  | truncated
  /-- an opcode that matches no row of the map: a decode miss (R76) -/
  | decodeMiss (op : Word)
deriving DecidableEq, Repr

/-- Two bytes as an opcode, the first (lower) address the high byte (20_memory.md R52). -/
def opcodeOfBytes (hi lo : Byte) : Word := hi ++ lo

/-- An opcode as its two bytes in memory order, high byte first (R52, R70). -/
def opcodeBytes (op : Word) : List Byte := [op.extractLsb' 8 8, op.extractLsb' 0 8]

/-- The instruction at the head of a byte sequence, and the bytes after it (R70). -/
def decodeBytes : List Byte → Except DecodeError (Instr × List Byte)
  | hi :: lo :: rest =>
    match decode (opcodeOfBytes hi lo) with
    | some i => .ok (i, rest)
    | none => .error (.decodeMiss (opcodeOfBytes hi lo))
  | _ => .error .truncated

/-- The instruction the decoder reads from an opcode-table word of `nbits` bits: the word is the opcode itself, stored
big-endian, and the bits above `nbits` are zero. -/
def decodeTableWord (nbits w : Nat) : Option Instr :=
  match decodeBytes (opcodeBytes (BitVec.ofNat 16 (w % 2 ^ nbits))) with
  | .ok (i, _) => some i
  | .error _ => none

/-! ## Encoder -/

/-- Format A: family, NNN (R72). -/
def formatA (family : BitVec 4) (nnn : Addr12) : Word := family ++ nnn

/-- Format XI: family, X, NN (R72). -/
def formatXI (family : BitVec 4) (x : RegIdx) (nn : Byte) : Word := family ++ (BitVec.ofFin x : BitVec 4) ++ nn

/-- Formats XY and XYN: family, X, Y, and the sub-opcode or N (R72). -/
def formatXY (family : BitVec 4) (x y : RegIdx) (n : BitVec 4) : Word :=
  family ++ (BitVec.ofFin x : BitVec 4) ++ (BitVec.ofFin y : BitVec 4) ++ n

/-- The opcode of an instruction (R72, R75). Format XS is format XI with the sub-opcode for NN. -/
def encode : Instr → Word
  | .cls => 0x00E0#16
  | .ret => 0x00EE#16
  | .jp nnn => formatA 0x1#4 nnn
  | .call nnn => formatA 0x2#4 nnn
  | .seImm x nn => formatXI 0x3#4 x nn
  | .sneImm x nn => formatXI 0x4#4 x nn
  | .seReg x y => formatXY 0x5#4 x y 0x0#4
  | .sneReg x y => formatXY 0x9#4 x y 0x0#4
  | .ldImm x nn => formatXI 0x6#4 x nn
  | .addImm x nn => formatXI 0x7#4 x nn
  | .ldReg x y => formatXY 0x8#4 x y 0x0#4
  | .orReg x y => formatXY 0x8#4 x y 0x1#4
  | .andReg x y => formatXY 0x8#4 x y 0x2#4
  | .xorReg x y => formatXY 0x8#4 x y 0x3#4
  | .addReg x y => formatXY 0x8#4 x y 0x4#4
  | .sub x y => formatXY 0x8#4 x y 0x5#4
  | .shr x y => formatXY 0x8#4 x y 0x6#4
  | .subn x y => formatXY 0x8#4 x y 0x7#4
  | .shl x y => formatXY 0x8#4 x y 0xE#4
  | .ldI nnn => formatA 0xA#4 nnn
  | .jpV0 nnn => formatA 0xB#4 nnn
  | .rnd x nn => formatXI 0xC#4 x nn
  | .drw x y n => formatXY 0xD#4 x y n
  | .skp x => formatXI 0xE#4 x 0x9E#8
  | .sknp x => formatXI 0xE#4 x 0xA1#8
  | .ldVxDt x => formatXI 0xF#4 x 0x07#8
  | .ldDtVx x => formatXI 0xF#4 x 0x15#8
  | .ldStVx x => formatXI 0xF#4 x 0x18#8
  | .ldVxK x => formatXI 0xF#4 x 0x0A#8
  | .addI x => formatXI 0xF#4 x 0x1E#8
  | .ldF x => formatXI 0xF#4 x 0x29#8
  | .ldB x => formatXI 0xF#4 x 0x33#8
  | .stRegs x => formatXI 0xF#4 x 0x55#8
  | .ldRegs x => formatXI 0xF#4 x 0x65#8

/-! ## Names (R78) -/

/-- The mnemonic of an instruction's row (R75, R78). -/
def mnemonicOf : Instr → String
  | .cls => "CLS"
  | .ret => "RET"
  | .jp _ => "JP"
  | .call _ => "CALL"
  | .seImm _ _ => "SE_IMM"
  | .sneImm _ _ => "SNE_IMM"
  | .seReg _ _ => "SE_REG"
  | .sneReg _ _ => "SNE_REG"
  | .ldImm _ _ => "LD_IMM"
  | .addImm _ _ => "ADD_IMM"
  | .ldReg _ _ => "LD_REG"
  | .orReg _ _ => "OR"
  | .andReg _ _ => "AND"
  | .xorReg _ _ => "XOR"
  | .addReg _ _ => "ADD_REG"
  | .sub _ _ => "SUB"
  | .shr _ _ => "SHR"
  | .subn _ _ => "SUBN"
  | .shl _ _ => "SHL"
  | .ldI _ => "LD_I"
  | .jpV0 _ => "JP_V0"
  | .rnd _ _ => "RND"
  | .drw _ _ _ => "DRW"
  | .skp _ => "SKP"
  | .sknp _ => "SKNP"
  | .ldVxDt _ => "LD_VX_DT"
  | .ldDtVx _ => "LD_DT_VX"
  | .ldStVx _ => "LD_ST_VX"
  | .ldVxK _ => "LD_VX_K"
  | .addI _ => "ADD_I"
  | .ldF _ => "LD_F"
  | .ldB _ => "LD_B"
  | .stRegs _ => "ST_REGS"
  | .ldRegs _ => "LD_REGS"

/-- One hexadecimal digit, capitals. -/
def hexDigit (d : Nat) : String := ["0", "1", "2", "3", "4", "5", "6", "7", "8", "9", "A", "B", "C", "D", "E", "F"].getD d "?"

/-- The name of a register, V0 to VF (10_state.md R20). -/
def regName (x : RegIdx) : String := "V" ++ hexDigit x.val

/-- An 8-bit number in hexadecimal. -/
def hexByte (b : Byte) : String := "0x" ++ hexDigit (b.toNat / 16) ++ hexDigit (b.toNat % 16)

/-- A 12-bit number in hexadecimal. -/
def hexAddr (a : Addr12) : String :=
  "0x" ++ hexDigit (a.toNat / 256) ++ hexDigit (a.toNat / 16 % 16) ++ hexDigit (a.toNat % 16)

/-- The assembly form of an instruction, the column `assembly` of R75 with its operands (R78). The ignored Y field of the
two shifts is written only when it is not 0. -/
def assemblyOf : Instr → String
  | .cls => "CLS"
  | .ret => "RET"
  | .jp nnn => "JP " ++ hexAddr nnn
  | .call nnn => "CALL " ++ hexAddr nnn
  | .seImm x nn => "SE " ++ regName x ++ ", " ++ hexByte nn
  | .sneImm x nn => "SNE " ++ regName x ++ ", " ++ hexByte nn
  | .seReg x y => "SE " ++ regName x ++ ", " ++ regName y
  | .sneReg x y => "SNE " ++ regName x ++ ", " ++ regName y
  | .ldImm x nn => "LD " ++ regName x ++ ", " ++ hexByte nn
  | .addImm x nn => "ADD " ++ regName x ++ ", " ++ hexByte nn
  | .ldReg x y => "LD " ++ regName x ++ ", " ++ regName y
  | .orReg x y => "OR " ++ regName x ++ ", " ++ regName y
  | .andReg x y => "AND " ++ regName x ++ ", " ++ regName y
  | .xorReg x y => "XOR " ++ regName x ++ ", " ++ regName y
  | .addReg x y => "ADD " ++ regName x ++ ", " ++ regName y
  | .sub x y => "SUB " ++ regName x ++ ", " ++ regName y
  | .shr x y => "SHR " ++ regName x ++ (if y = 0 then "" else ", " ++ regName y)
  | .subn x y => "SUBN " ++ regName x ++ ", " ++ regName y
  | .shl x y => "SHL " ++ regName x ++ (if y = 0 then "" else ", " ++ regName y)
  | .ldI nnn => "LD I, " ++ hexAddr nnn
  | .jpV0 nnn => "JP V0, " ++ hexAddr nnn
  | .rnd x nn => "RND " ++ regName x ++ ", " ++ hexByte nn
  | .drw x y n => "DRW " ++ regName x ++ ", " ++ regName y ++ ", 0x" ++ hexDigit n.toNat
  | .skp x => "SKP " ++ regName x
  | .sknp x => "SKNP " ++ regName x
  | .ldVxDt x => "LD " ++ regName x ++ ", DT"
  | .ldDtVx x => "LD DT, " ++ regName x
  | .ldStVx x => "LD ST, " ++ regName x
  | .ldVxK x => "LD " ++ regName x ++ ", K"
  | .addI x => "ADD I, " ++ regName x
  | .ldF x => "LD F, " ++ regName x
  | .ldB x => "LD B, " ++ regName x
  | .stRegs x => "LD [I], " ++ regName x
  | .ldRegs x => "LD " ++ regName x ++ ", [I]"

end Sys2Proof
end

