-- ==== Sys2Proof/Machine/State.lean ====
section
/-! DEFINITION. The state of the core (10_state.md R20 to R31), as plain data, and its value after RESET (R33). The last
five fields are the model's own: they carry the inputs and the outputs of commands, which the spec's core does not store
(R32, R35); each names its log entry. -/

namespace Sys2Proof.Machine

/-- Main memory: the bytes that differ from what reset left, as (address, byte) pairs, addresses strictly rising below
4096, none equal to `Config.resetByte` of its address (R25; log entry 6). `Memory.wf` says so. -/
abbrev Memory := List Host.Cell

/-- The framebuffer: 32 rows of 64 one-bit pixels; bit c of row r is the pixel of column c, row r, which is fb[r*64 + c]
(R26). -/
abbrev FrameBuffer := Vector (BitVec Config.fbW) Config.fbH

/-- The three values of the status register (R30). Its encoding 3 is never produced. -/
inductive Status where
  /-- encoding 0: normal progression -/
  | running
  /-- encoding 1: the latest STEP was an FX0A that found no key -/
  | awaitKey
  /-- encoding 2: a fault was raised; left only by RESET -/
  | halted
deriving DecidableEq, Repr

/-- The values of the fault_cause register (R31, 60_exceptions.md R200). Its codes 6 and 7 are never produced. -/
inductive FaultCause where
  /-- code 0: status is not Halted -/
  | none
  /-- code 1: 2NNN with sp = 16 -/
  | stackOverflow
  /-- code 2: 00EE with sp = 0 -/
  | stackUnderflow
  /-- code 3: fetch with pc > 0xFFE -/
  | fetchFault
  /-- code 4: a data access of DXYN, FX33, FX55 or FX65 past 0xFFF -/
  | memFault
  /-- code 5: EX9E or EXA1 with VX > 15 -/
  | keyIndexFault
deriving DecidableEq, Repr

/-- The three reports a command may emit to the host (R32, 60_exceptions.md R201). -/
inductive Report where
  /-- from STEP: the opcode matched no row of the map (R98) -/
  | decodeMiss (op : Word)
  /-- from LOAD: the program is larger than memory (R92) -/
  | loadError
  /-- from TICK: ST went from 1 to 0 (R193) -/
  | soundEdge
deriving DecidableEq, Repr

/-- The commands the host can issue (00_scope.md R8, 40_step_cycle.md R90). -/
inductive Command where
  /-- RESET (R91) -/
  | reset
  /-- LOAD(bytes) (R92) -/
  | load (bytes : List Byte)
  /-- KEY(k, pressed) (R93) -/
  | key (k : KeyIdx) (pressed : Bool)
  /-- STEP(rand) (R94) -/
  | step (rand : Byte)
  /-- TICK (R193) -/
  | tick
deriving DecidableEq, Repr

/-- How far the launch order of 70_reset_and_hazards.md R231 has gone: it decides whether LOAD is defined (R92, 93 U12;
log entry 5). -/
inductive Launch where
  /-- after RESET, before a successful LOAD and before any STEP -/
  | fresh
  /-- after a successful LOAD, before any STEP -/
  | loaded
  /-- after a STEP -/
  | stepped
deriving DecidableEq, Repr

/-- Reasons for the machine to stop. There are none: the spec gives a next state for every fault it names
(60_exceptions.md R205: status Halted), and the model takes it (log entry 1). -/
inductive Fault where
deriving DecidableEq, Repr

/-- Reasons to give a command no meaning. -/
inductive Refusal where
  /-- raised by an arm of exec that has no meaning yet; safe -/
  | notModelled (mnemonic : String)
  /-- raised by LOAD after the first STEP, or by a second LOAD, which the document does not define and R92 and 93 U12 tell a
  model to refuse; safe (log entry 5) -/
  | loadOutsideLaunch
deriving DecidableEq, Repr

/-- The state of the core. -/
structure State where
  /-- the general registers V0 to VF; VF is also the flag (R20, R21) -/
  v : Vector Byte Config.nregs
  /-- the index register I (R22) -/
  i : BitVec Config.iWidth
  /-- the program counter (R23) -/
  pc : BitVec Config.pcWidth
  /-- the stack pointer: the number of valid entries, 0 to 16 (R24) -/
  sp : Fin (Config.stackDepth + 1)
  /-- the call stack (R24) -/
  stack : Vector (BitVec Config.stackEntryWidth) Config.stackDepth
  /-- main memory (R25) -/
  mem : Memory
  /-- the framebuffer (R26) -/
  fb : FrameBuffer
  /-- the keypad: true is pressed (R27) -/
  key : Vector Bool Config.nkeys
  /-- the delay timer DT (R28) -/
  dt : BitVec Config.timerWidth
  /-- the sound timer ST (R28) -/
  st : BitVec Config.timerWidth
  /-- the opcode latch, written by the fetch (R29) -/
  opcode : Word
  /-- the status register (R30) -/
  status : Status
  /-- the fault_cause register (R31) -/
  faultCause : FaultCause
  /-- MODEL'S OWN: the report output of the latest command (R32; log entry 4) -/
  report : Option Report
  /-- MODEL'S OWN: the rand input of the STEP being executed (R102; log entry 3) -/
  rand : Byte
  /-- MODEL'S OWN: how many rand bytes have been taken from `Config.freeRand` (R102; log entry 3) -/
  draws : Nat
  /-- MODEL'S OWN: the progress of the launch (R92, R231; log entry 5) -/
  launch : Launch
  /-- MODEL'S OWN: the host's commands not yet taken, oldest first (R59; log entry 2) -/
  pending : List Command
deriving DecidableEq, Repr

/-- The state right after RESET (R33, R91, R230); no memory byte differs from the reset contents. -/
def State.reset : State where
  v := Vector.replicate Config.nregs 0
  i := 0
  pc := BitVec.ofNat Config.pcWidth Config.progBase
  sp := 0
  stack := Vector.replicate Config.stackDepth 0
  mem := []
  fb := Vector.replicate Config.fbH 0
  key := Vector.replicate Config.nkeys false
  dt := 0
  st := 0
  opcode := 0
  status := .running
  faultCause := .none
  report := none
  rand := 0
  draws := 0
  launch := .fresh
  pending := []

end Sys2Proof.Machine
end

