-- ==== Sys2Proof/Machine/Ops.lean ====
section
/-! DEFINITION. The named operations on memory, registers, the stack, the framebuffer and the control registers. Every
instruction reads and writes state through these. -/

namespace Sys2Proof.Machine

/-- What an instruction or a command answers. -/
abbrev Result := Host.Outcome State Fault Refusal

/-! ## Main memory (10_state.md R25, 20_memory.md R50 to R57) -/

/-- The byte at an address: the listed one, else what reset left there. -/
def Memory.read : Memory → Nat → Byte
  | [], a => Config.resetByte a
  | (b, w) :: rest, a => if a = b then w else Memory.read rest a

/-- Lists a byte at its place in the rising order of addresses. -/
def Memory.insert : Memory → Nat → Byte → Memory
  | [], a, w => [(a, w)]
  | (b, u) :: rest, a, w =>
    if a < b then (a, w) :: (b, u) :: rest
    else if a = b then (a, w) :: rest
    else (b, u) :: Memory.insert rest a w

/-- Writes a byte, keeping the canonical form: a byte equal to the reset contents is not listed. -/
def Memory.write (m : Memory) (a : Nat) (w : Byte) : Memory :=
  if w = Config.resetByte a then m.filter (fun c => c.1 != a) else m.insert a w

/-- n bytes from an address upward, the lowest address first. -/
def Memory.readBytes (m : Memory) (a : Nat) : Nat → List Byte
  | 0 => []
  | n + 1 => m.read a :: Memory.readBytes m (a + 1) n

/-- Writes bytes from an address upward, the first byte at the lowest address. -/
def Memory.writeBytes : Memory → Nat → List Byte → Memory
  | m, _, [] => m
  | m, a, w :: ws => Memory.writeBytes (m.write a w) (a + 1) ws

/-- The two-byte read of a fetch, big-endian: `(mem[a] << 8) | mem[a+1]` (R52). -/
def Memory.readOpcode (m : Memory) (a : Nat) : Word := opcodeOfBytes (m.read a) (m.read (a + 1))

/-- The canonical form from an address on: addresses strictly rising, all below 4096, no byte equal to the reset
contents. -/
def Memory.wfFrom : Nat → Memory → Bool
  | _, [] => true
  | lo, (a, w) :: rest =>
    decide (lo ≤ a) && decide (a < Config.memSize) && decide (w ≠ Config.resetByte a) && Memory.wfFrom (a + 1) rest

/-- Memory is in its canonical form, so that equal memories are equal lists. -/
def Memory.wf (m : Memory) : Bool := Memory.wfFrom 0 m

/-! ## General registers (R20) -/

/-- V[r]. -/
def State.getV (s : State) (r : RegIdx) : Byte := s.v[r]

/-- V[r] <- b. -/
def State.setV (s : State) (r : RegIdx) (b : Byte) : State := { s with v := s.v.set r.val b r.isLt }

/-- The number of VF, the flag register (R21). -/
def regVF : RegIdx := 0xF

/-- Writes bytes into consecutive registers from number k upward, as far as there are registers (R155). -/
def loadRegsFrom : Vector Byte Config.nregs → Nat → List Byte → Vector Byte Config.nregs
  | v, _, [] => v
  | v, k, b :: bs => loadRegsFrom (v.setIfInBounds k b) (k + 1) bs

/-! ## Call stack (R24, 41_control_flow.md R111, R112) -/

/-- The push of 2NNN: stack[sp] <- w, sp <- sp + 1; none when the stack holds 16 entries (R111). -/
def State.push (s : State) (w : Word) : Option State :=
  if h : s.sp.val < Config.stackDepth then
    some { s with stack := s.stack.set s.sp.val w h, sp := ⟨s.sp.val + 1, by omega⟩ }
  else none

/-- The pop of 00EE: sp <- sp - 1 and the value stack[sp]; none when sp = 0. The entry is not cleared (R24, R112). -/
def State.pop (s : State) : Option (Word × State) :=
  if h : s.sp.val = 0 then none
  else some (s.stack[s.sp.val - 1]'(by omega), { s with sp := ⟨s.sp.val - 1, by omega⟩ })

/-! ## Framebuffer (R26, 44_display.md R171 to R173) -/

/-- fb[k], k = row*64 + column. -/
def FrameBuffer.pixel (fb : FrameBuffer) (k : Nat) : Bool :=
  (fb[k / Config.fbW]?.getD 0).getLsbD (k % Config.fbW)

/-- fb[k] <- fb[k] xor 1. -/
def FrameBuffer.invert (fb : FrameBuffer) (k : Nat) : FrameBuffer :=
  fb.setIfInBounds (k / Config.fbW)
    ((fb[k / Config.fbW]?.getD 0) ^^^ BitVec.twoPow Config.fbW (k % Config.fbW))

/-- Every pixel 0 (R170). -/
def FrameBuffer.clear : FrameBuffer := Vector.replicate Config.fbH 0

/-! ## Ending an instruction: pc and status (40_step_cycle.md R97, R100) -/

/-- The instruction completed: pc <- target, and status <- Running (R97, R100). -/
def State.retire (s : State) (target : Word) : State := { s with pc := target, status := .running }

/-- The address n instructions on, modulo 65536: pc + n * INSTR_BYTES (R4, R97). -/
def State.pcAfter (s : State) (n : Nat) : Word := s.pc + BitVec.ofNat Config.pcWidth (n * Config.instrBytes)

/-- R97 mode (a): pc <- (pc + 2) mod 65536. -/
def State.advance (s : State) : State := s.retire (s.pcAfter 1)

/-- R97 mode (b): pc <- pc + 4 when the skip is taken, pc + 2 when it is not, modulo 65536. -/
def State.skipIf (s : State) (taken : Bool) : State := s.retire (if taken then s.pcAfter 2 else s.pcAfter 1)

/-- R97 mode (d) with no key pressed: no pc write; status <- AwaitKey (R100, R182). -/
def State.await (s : State) : State := { s with status := .awaitKey }

/-- TAKING A FAULT (60_exceptions.md R99, R205, R206): status <- Halted, fault_cause <- the code, and nothing else: pc
stays at the faulting instruction. There is no handler and no saved context, and no return but RESET (R207). -/
def State.raise (s : State) (c : FaultCause) : State := { s with status := .halted, faultCause := c }

/-- A decode miss (R98): the report decode_miss(op), pc <- pc + 2, and status Running (R100). -/
def State.decodeMiss (s : State) (op : Word) : State := { s.advance with report := some (.decodeMiss op) }

/-! ## Codes of the control registers (R30, R31, R200) -/

/-- The 2-bit encoding of the status register (R30). -/
def Status.code : Status → BitVec 2
  | .running => 0
  | .awaitKey => 1
  | .halted => 2

/-- The 3-bit code of the fault_cause register (R200). -/
def FaultCause.code : FaultCause → BitVec 3
  | .none => 0
  | .stackOverflow => 1
  | .stackUnderflow => 2
  | .fetchFault => 3
  | .memFault => 4
  | .keyIndexFault => 5

end Sys2Proof.Machine
end

