-- ==== Sys2Proof/Machine/Flags.lean ====
section
/-! DEFINITION. The flags: what the five flag instructions put in VF, and the order in which flag and result are written
(42_alu.md R130, R143; 92 D7; log entry 8). -/

namespace Sys2Proof.Machine

/-- 1 for true, 0 for false: the two values of a flag (10_state.md R21). -/
def flagByte (b : Bool) : Byte := if b then 1 else 0

/-- The carry of 8XY4: 1 when a + b > 255 (R137). -/
def carryFlag (a b : Byte) : Byte := flagByte (decide (a.toNat + b.toNat > 255))

/-- The no-borrow of 8XY5 and 8XY7: 1 when minuend >= subtrahend (R138, R140). -/
def noBorrowFlag (minuend subtrahend : Byte) : Byte := flagByte (decide (subtrahend.toNat ≤ minuend.toNat))

/-- The bit 8XY6 shifts out: bit 0 (R139). -/
def shiftedOutLow (a : Byte) : Byte := flagByte (a.getLsbD 0)

/-- The bit 8XYE shifts out: bit 7 (R141). -/
def shiftedOutHigh (a : Byte) : Byte := flagByte (a.getLsbD 7)

/-- R130: VF <- flag, then VX <- result, so that with X = 0xF the result survives. -/
def State.setFlagThenResult (s : State) (x : RegIdx) (flag result : Byte) : State :=
  (s.setV regVF flag).setV x result

end Sys2Proof.Machine
end

