-- ==== Sys2Proof/Machine/Operands.lean ====
section
/-! DEFINITION. The operand forms: zero-extended immediates and registers, the one addressing mode I + k with its range
check, key indices, and the digits of FX33 (30_encoding.md R73, 43_index_memory.md R156, 45_keypad.md R183). -/

namespace Sys2Proof.Machine

/-- zext16: an 8-bit or 12-bit value widened to 16 bits with zeros (00_scope.md R6, R73). -/
def zext16 {w : Nat} (b : BitVec w) : Word := b.setWidth 16

/-- The effective address I + k, an unbounded sum that does not wrap (R156). -/
def State.effAddr (s : State) (k : Nat) : Nat := s.i.toNat + k

/-- An access to n bytes at address a is in range: a + n - 1 <= 0xFFF, or no byte is accessed (20_memory.md R55;
44_display.md R171 for n = 0). -/
def inRange (a n : Nat) : Bool := n == 0 || decide (a + n - 1 ≤ Config.lastAddr)

/-- The fetch at pc is in range: pc + 1 <= 0xFFF (40_step_cycle.md R95). -/
def State.fetchOk (s : State) : Bool := inRange s.pc.toNat Config.instrBytes

/-- MemRead(pc, 2), the opcode at pc (R52, R95). -/
def State.fetchOpcode (s : State) : Word := s.mem.readOpcode s.pc.toNat

/-- The value of a register as a key index; none when it is above 15 (R183). -/
def keyIndex (b : Byte) : Option KeyIdx := if h : b.toNat < Config.nkeys then some ⟨b.toNat, h⟩ else none

/-- The lowest pressed key, scanning 0 to 15 (R182). -/
def firstPressed (keys : Vector Bool Config.nkeys) : Option KeyIdx := (List.finRange Config.nkeys).find? (fun k => keys[k])

/-- The hundreds, tens and ones of a byte (R153). -/
def bcdDigits (b : Byte) : List Byte :=
  [BitVec.ofNat 8 (b.toNat / 100), BitVec.ofNat 8 (b.toNat / 10 % 10), BitVec.ofNat 8 (b.toNat % 10)]

/-- V0 to VX in order (R154). -/
def State.regsUpTo (s : State) (x : RegIdx) : List Byte := s.v.toList.take (x.val + 1)

end Sys2Proof.Machine
end

