-- ==== Sys2Proof/Machine/Alu.lean ====
section
/-! DEFINITION. Loads, arithmetic, logic, shifts and the random byte (42_alu.md). Every operand is read from the state
before the instruction (R130). -/

namespace Sys2Proof.Machine

/-- 6XNN, R131: VX <- NN. -/
def execLdImm (x : RegIdx) (nn : Byte) (s : State) : Result := .next (s.setV x nn).advance

/-- 7XNN, R132: VX <- VX + NN mod 256; no flag. -/
def execAddImm (x : RegIdx) (nn : Byte) (s : State) : Result := .next (s.setV x (s.getV x + nn)).advance

/-- 8XY0, R133: VX <- VY. -/
def execLdReg (x y : RegIdx) (s : State) : Result := .next (s.setV x (s.getV y)).advance

/-- 8XY1, R134: VX <- VX or VY; VF untouched. -/
def execOrReg (x y : RegIdx) (s : State) : Result := .next (s.setV x (s.getV x ||| s.getV y)).advance

/-- 8XY2, R135: VX <- VX and VY; VF untouched. -/
def execAndReg (x y : RegIdx) (s : State) : Result := .next (s.setV x (s.getV x &&& s.getV y)).advance

/-- 8XY3, R136: VX <- VX xor VY; VF untouched. -/
def execXorReg (x y : RegIdx) (s : State) : Result := .next (s.setV x (s.getV x ^^^ s.getV y)).advance

/-- 8XY4, R137: VF <- carry, then VX <- the sum mod 256. -/
def execAddReg (x y : RegIdx) (s : State) : Result :=
  .next (s.setFlagThenResult x (carryFlag (s.getV x) (s.getV y)) (s.getV x + s.getV y)).advance

/-- 8XY5, R138: VF <- (VX >= VY), then VX <- VX - VY mod 256. -/
def execSub (x y : RegIdx) (s : State) : Result :=
  .next (s.setFlagThenResult x (noBorrowFlag (s.getV x) (s.getV y)) (s.getV x - s.getV y)).advance

/-- 8XY6, R139: VF <- old bit 0, then VX <- VX >> 1; the Y field is ignored (R77). -/
def execShr (x _y : RegIdx) (s : State) : Result :=
  .next (s.setFlagThenResult x (shiftedOutLow (s.getV x)) (s.getV x >>> 1)).advance

/-- 8XY7, R140: VF <- (VY >= VX), then VX <- VY - VX mod 256. -/
def execSubn (x y : RegIdx) (s : State) : Result :=
  .next (s.setFlagThenResult x (noBorrowFlag (s.getV y) (s.getV x)) (s.getV y - s.getV x)).advance

/-- 8XYE, R141: VF <- old bit 7, then VX <- VX << 1 mod 256; the Y field is ignored (R77). -/
def execShl (x _y : RegIdx) (s : State) : Result :=
  .next (s.setFlagThenResult x (shiftedOutHigh (s.getV x)) (s.getV x <<< 1)).advance

/-- CXNN, R142: VX <- rand and NN, rand being the input of this STEP (R102; log entry 3). -/
def execRnd (x : RegIdx) (nn : Byte) (s : State) : Result := .next (s.setV x (s.rand &&& nn)).advance

end Sys2Proof.Machine
end

