-- ==== Sys2Proof/Machine/ControlFlow.lean ====
section
/-! DEFINITION. Control transfer: RET, JP, CALL, SE, SNE, JP V0 (41_control_flow.md). -/

namespace Sys2Proof.Machine

/-- 1NNN, R110: pc <- NNN. -/
def execJp (nnn : Addr12) (s : State) : Result := .next (s.retire (zext16 nnn))

/-- 2NNN, R111: pushes (pc + 2) mod 65536 and jumps; StackOverflow when sp = 16. -/
def execCall (nnn : Addr12) (s : State) : Result :=
  match s.push (s.pcAfter 1) with
  | some t => .next (t.retire (zext16 nnn))
  | none => .next (s.raise .stackOverflow)

/-- 00EE, R112: pops into pc; StackUnderflow when sp = 0. -/
def execRet (s : State) : Result :=
  match s.pop with
  | some (w, t) => .next (t.retire w)
  | none => .next (s.raise .stackUnderflow)

/-- BNNN, R113: pc <- NNN + V0, not masked (92 D11). -/
def execJpV0 (nnn : Addr12) (s : State) : Result := .next (s.retire (zext16 nnn + zext16 (s.getV 0)))

/-- 3XNN, R114: skip if VX = NN. -/
def execSeImm (x : RegIdx) (nn : Byte) (s : State) : Result := .next (s.skipIf (s.getV x == nn))

/-- 4XNN, R115: skip if VX != NN. -/
def execSneImm (x : RegIdx) (nn : Byte) (s : State) : Result := .next (s.skipIf (s.getV x != nn))

/-- 5XY0, R116: skip if VX = VY. -/
def execSeReg (x y : RegIdx) (s : State) : Result := .next (s.skipIf (s.getV x == s.getV y))

/-- 9XY0, R117: skip if VX != VY. -/
def execSneReg (x y : RegIdx) (s : State) : Result := .next (s.skipIf (s.getV x != s.getV y))

end Sys2Proof.Machine
end

