-- ==== Sys2Proof/Machine/Display.lean ====
section
/-! DEFINITION. The display instructions and the framebuffer writer (44_display.md). -/

namespace Sys2Proof.Machine

/-- A drawing in progress: the framebuffer and the collision seen so far (`fb` and `coll` of R171). -/
structure Canvas where
  fb : FrameBuffer
  hit : Bool
deriving DecidableEq, Repr

/-- The framebuffer index of a pixel, every coordinate wrapped (R171, R173; 92 D13; log entry 10). -/
def pixelIndex (column row : Nat) : Nat := row % Config.fbH * Config.fbW + column % Config.fbW

/-- A sprite bit equal to 1 on pixel k: a collision when the pixel is 1, and the pixel is inverted (R171). -/
def Canvas.plot (c : Canvas) (k : Nat) : Canvas := ⟨c.fb.invert k, c.hit || c.fb.pixel k⟩

/-- The sprite bit at a column offset: bit 7 is the leftmost, bit 0 the rightmost (R171). -/
def spriteBit (b : Byte) (col : Nat) : Bool := b.getLsbD (7 - col)

/-- One sprite row: the columns from col on, n of them, left to right (R171, the inner loop). -/
def Canvas.drawColumns (b : Byte) (x0 row : Nat) : (col n : Nat) → Canvas → Canvas
  | _, 0, c => c
  | col, n + 1, c =>
    Canvas.drawColumns b x0 row (col + 1) n (if spriteBit b col then c.plot (pixelIndex (x0 + col) row) else c)

/-- The sprite, one byte a row, from a row downward (R171, the outer loop). -/
def Canvas.drawRows (x0 : Nat) : (row : Nat) → List Byte → Canvas → Canvas
  | _, [], c => c
  | row, b :: bs, c => Canvas.drawRows x0 (row + 1) bs (Canvas.drawColumns b x0 row 0 8 c)

/-- The sprite of bytes at column x0 and row y0 on a framebuffer, with no collision yet (R171). -/
def drawSprite (fb : FrameBuffer) (x0 y0 : Nat) (sprite : List Byte) : Canvas :=
  Canvas.drawRows x0 y0 sprite ⟨fb, false⟩

/-- 00E0, R170: every pixel 0. -/
def execCls (s : State) : Result := .next { s with fb := FrameBuffer.clear }.advance

/-- DXYN, R171: XOR-draws N rows from memory at I, then VF <- collision; MemFault when N > 0 and I + N - 1 > 0xFFF. -/
def execDrw (x y : RegIdx) (n : BitVec 4) (s : State) : Result :=
  if inRange (s.effAddr 0) n.toNat then
    let drawn := drawSprite s.fb (s.getV x).toNat (s.getV y).toNat (s.mem.readBytes (s.effAddr 0) n.toNat)
    .next ({ s with fb := drawn.fb }.setV regVF (flagByte drawn.hit)).advance
  else .next (s.raise .memFault)

end Sys2Proof.Machine
end

