-- ==== Sys2Proof/Machine/IndexMemory.lean ====
section
/-! DEFINITION. The index register and memory (43_index_memory.md). The whole range of an access is checked before
anything is written (20_memory.md R55, 60_exceptions.md R206). -/

namespace Sys2Proof.Machine

/-- ANNN, R150: I <- NNN. -/
def execLdI (nnn : Addr12) (s : State) : Result := .next { s with i := zext16 nnn }.advance

/-- FX1E, R151: I <- I + VX mod 65536; no flag. -/
def execAddI (x : RegIdx) (s : State) : Result := .next { s with i := s.i + zext16 (s.getV x) }.advance

/-- FX29, R152: I <- FX29_BASE + VX * 5, the whole byte VX. -/
def execLdF (x : RegIdx) (s : State) : Result :=
  .next { s with i := Config.fx29Base + zext16 (s.getV x) * 5 }.advance

/-- FX33, R153: the decimal digits of VX to I, I+1, I+2; MemFault when I + 2 > 0xFFF. -/
def execLdB (x : RegIdx) (s : State) : Result :=
  if inRange (s.effAddr 0) 3 then
    .next { s with mem := s.mem.writeBytes (s.effAddr 0) (bcdDigits (s.getV x)) }.advance
  else .next (s.raise .memFault)

/-- FX55, R154: V0..VX to memory from I; MemFault when I + X > 0xFFF. -/
def execStRegs (x : RegIdx) (s : State) : Result :=
  if inRange (s.effAddr 0) (x.val + 1) then
    .next { s with mem := s.mem.writeBytes (s.effAddr 0) (s.regsUpTo x) }.advance
  else .next (s.raise .memFault)

/-- FX65, R155: memory from I to V0..VX; MemFault when I + X > 0xFFF. -/
def execLdRegs (x : RegIdx) (s : State) : Result :=
  if inRange (s.effAddr 0) (x.val + 1) then
    .next { s with v := loadRegsFrom s.v 0 (s.mem.readBytes (s.effAddr 0) (x.val + 1)) }.advance
  else .next (s.raise .memFault)

end Sys2Proof.Machine
end

