-- ==== Sys2Proof/Machine/Keypad.lean ====
section
/-! DEFINITION. The keypad instructions (45_keypad.md): they test key levels and write no key. -/

namespace Sys2Proof.Machine

/-- EX9E, R180: skip if key[VX] is pressed; KeyIndexFault when VX > 15 (R183). -/
def execSkp (x : RegIdx) (s : State) : Result :=
  match keyIndex (s.getV x) with
  | some k => .next (s.skipIf s.key[k])
  | none => .next (s.raise .keyIndexFault)

/-- EXA1, R181: skip if key[VX] is not pressed; KeyIndexFault when VX > 15 (R183). -/
def execSknp (x : RegIdx) (s : State) : Result :=
  match keyIndex (s.getV x) with
  | some k => .next (s.skipIf (!s.key[k]))
  | none => .next (s.raise .keyIndexFault)

/-- FX0A, R182: VX <- the lowest pressed key; with none pressed pc holds and status becomes AwaitKey (R100). -/
def execLdVxK (x : RegIdx) (s : State) : Result :=
  match firstPressed s.key with
  | some k => .next (s.setV x (BitVec.ofNat 8 k.val)).advance
  | none => .next s.await

end Sys2Proof.Machine
end

