-- ==== Sys2Proof/Machine/Timers.lean ====
section
/-! DEFINITION. The timer instructions (46_timers.md R190 to R192). TICK is a command, in Commands.lean. -/

namespace Sys2Proof.Machine

/-- FX07, R190: VX <- DT. -/
def execLdVxDt (x : RegIdx) (s : State) : Result := .next (s.setV x s.dt).advance

/-- FX15, R191: DT <- VX. -/
def execLdDtVx (x : RegIdx) (s : State) : Result := .next { s with dt := s.getV x }.advance

/-- FX18, R192: ST <- VX; no report. -/
def execLdStVx (x : RegIdx) (s : State) : Result := .next { s with st := s.getV x }.advance

end Sys2Proof.Machine
end

