-- ==== Sys2Proof/Machine/Commands.lean ====
section
/-! DEFINITION. The five commands of the host (40_step_cycle.md R90 to R102, 46_timers.md R193), each one atomic
transition (20_memory.md R59), and the read ports (R34, 44_display.md R172). A command's report is left in
`State.report`, and a command that emits none clears it (log entry 4). -/

namespace Sys2Proof.Machine

/-! ## RESET, LOAD, KEY, TICK -/

/-- RESET (R91): every piece of state to its value of R33, in every status. The host's own pending commands and the
count of rand bytes taken are no state of the core and stay. -/
def resetCommand (s : State) : Result := .next { State.reset with pending := s.pending, draws := s.draws }

/-- A command that changes no state and emits no report. -/
def State.quiet (s : State) : State := { s with report := none }

/-- LOAD(bytes) (R92): nothing in Halted (R208); refused outside the launch (93 U12; log entry 5); the report load_error
and no write when len > 3584; else the bytes from 0x200 on and nothing else. -/
def loadCommand (bytes : List Byte) (s : State) : Result :=
  if s.status = .halted then .next s.quiet
  else if s.launch ≠ .fresh then .refused .loadOutsideLaunch
  else if bytes.length > Config.maxProg then .next { s with report := some .loadError }
  else .next { s.quiet with mem := s.mem.writeBytes Config.progBase bytes, launch := .loaded }

/-- KEY(k, pressed) (R93): key[k] <- pressed, in every status. -/
def keyCommand (k : KeyIdx) (pressed : Bool) (s : State) : Result :=
  .next { s.quiet with key := s.key.set k.val pressed k.isLt }

/-- A timer decremented and clamped at 0 (R28, R193). -/
def timerDown (b : BitVec Config.timerWidth) : BitVec Config.timerWidth := if b = 0 then 0 else b - 1

/-- TICK (R193): each timer down by 1 if it is not 0, and the report sound_edge when ST goes from 1 to 0; nothing in
Halted (R208). -/
def tickCommand (s : State) : Result :=
  if s.status = .halted then .next s.quiet
  else .next
    { s with dt := timerDown s.dt, st := timerDown s.st, report := if s.st = 1 then some .soundEdge else none }

/-! ## STEP -/

/-- A STEP begins: the host's rand byte is presented (R102), nothing is reported yet, and the launch is over (R231). -/
def State.beginStep (s : State) (rand : Byte) : State :=
  { s with rand := rand, report := none, launch := .stepped }

/-- A STEP ends: the rand input is no longer presented (log entry 3). -/
def State.endStep (s : State) : State := { s with rand := 0 }

/-- The end of a STEP, on whatever its execute stage answered. -/
def endStepResult : Result → Result
  | .next t => .next t.endStep
  | .fault f => .fault f
  | .refused r => .refused r

/-- Decode and execute (R96 to R100) of the fetched opcode, from the state whose latch holds it. -/
def decodeAndExecute (s : State) : Result :=
  match decode s.opcode with
  | some i => exec i s
  | none => .next (s.decodeMiss s.opcode)

/-- Fetch, decode and execute (R94, R95): FetchFault when pc > 0xFFE; else opcode <- the two bytes at pc. -/
def fetchAndExecute (s : State) : Result :=
  if s.fetchOk then decodeAndExecute { s with opcode := s.fetchOpcode } else .next (s.raise .fetchFault)

/-- STEP(rand) (R94): nothing in Halted (R101); else one fetch, decode and execute. -/
def stepCommand (rand : Byte) (s : State) : Result :=
  if s.status = .halted then .next s.quiet
  else endStepResult (fetchAndExecute (s.beginStep rand))

/-- One command of the host (R90). -/
def runCommand (c : Command) (s : State) : Result :=
  match c with
  | .reset => resetCommand s
  | .load bytes => loadCommand bytes s
  | .key k pressed => keyCommand k pressed s
  | .step rand => stepCommand rand s
  | .tick => tickCommand s

/-- The oldest pending command, or, when the host has left none pending, a STEP with a free rand byte (log entries 2
and 3); and the state with it taken. -/
def takeCommand (s : State) : Command × State :=
  match s.pending with
  | c :: rest => (c, { s with pending := rest })
  | [] => (.step (Config.freeRand s.draws), { s with draws := s.draws + 1 })

/-! ## Read ports (R34, R103, R172) -/

/-- The framebuffer read port: fb[k] (R172). -/
def portPixel (s : State) (k : Fin Config.fbPixels) : Bool := s.fb.pixel k.val

/-- The timer read ports (R28). -/
def portTimers (s : State) : BitVec Config.timerWidth × BitVec Config.timerWidth := (s.dt, s.st)

/-- The status read port (R30). -/
def portStatus (s : State) : BitVec 2 := s.status.code

/-- The fault_cause read port (R31). -/
def portFaultCause (s : State) : BitVec 3 := s.faultCause.code

/-! ## Placing an instruction (the host's use of the model) -/

/-- Memory with an opcode stored where the next fetch reads it; unchanged where no fetch is in range. -/
def State.memWithOpcode (s : State) (op : Word) : Memory :=
  if s.fetchOk then s.mem.writeBytes s.pc.toNat (opcodeBytes op) else s.mem

/-- The state with an opcode stored at pc and ready to fetch it: no command pending before the STEP, and not Halted. -/
def State.placeOpcode (s : State) (op : Word) : State :=
  { s with
    mem := s.memWithOpcode op
    pending := []
    status := if s.status = .halted then .running else s.status
    faultCause := if s.status = .halted then .none else s.faultCause }

end Sys2Proof.Machine
end

