-- ==== Sys2Proof/Machine/Step.lean ====
section
/-! DEFINITION. One step of the machine: the next command of the host (20_memory.md R59). A STEP command is the next
one whenever none is pending. -/

namespace Sys2Proof.Machine

/-- One command: the oldest pending one, else STEP with a free rand byte (log entry 2). -/
def step (s : State) : Host.Outcome State Fault Refusal := runCommand (takeCommand s).1 (takeCommand s).2

/-- The state with the opcode `w` of `nbits` bits stored big-endian at pc, so that the next step fetches and runs it. -/
def State.withFetchWord (s : State) (nbits w : Nat) : State := s.placeOpcode (BitVec.ofNat 16 (w % 2 ^ nbits))

end Sys2Proof.Machine
end

