-- ==== Sys2Proof/Safety.lean ====
section
/-! DEFINITION. The terms claims are stated in: the pieces of state and frames over them, the encoding formats, safe and
parked states, the invariant of the core, and what a sprite covers. -/

namespace Sys2Proof.Machine

/-! ## Pieces of state and frames -/

/-- One piece of state, down to one register, one stack entry, one byte, one pixel, one key. -/
inductive Part where
  | reg (r : RegIdx)
  | index
  | pc
  | sp
  | stackEntry (k : Fin Config.stackDepth)
  | memByte (a : Nat)
  | pixel (k : Fin Config.fbPixels)
  | key (k : KeyIdx)
  | dt
  | st
  | opcode
  | status
  | faultCause
  | report
  | rand
  | draws
  | launch
  | pending
deriving DecidableEq, Repr

/-- The piece has the same value in both states; a byte of memory is compared through the read of one byte. -/
def Part.Same (s t : State) : Part → Prop
  | .reg r => t.getV r = s.getV r
  | .index => t.i = s.i
  | .pc => t.pc = s.pc
  | .sp => t.sp = s.sp
  | .stackEntry k => t.stack[k] = s.stack[k]
  | .memByte a => t.mem.read a = s.mem.read a
  | .pixel k => t.fb.pixel k.val = s.fb.pixel k.val
  | .key k => t.key[k] = s.key[k]
  | .dt => t.dt = s.dt
  | .st => t.st = s.st
  | .opcode => t.opcode = s.opcode
  | .status => t.status = s.status
  | .faultCause => t.faultCause = s.faultCause
  | .report => t.report = s.report
  | .rand => t.rand = s.rand
  | .draws => t.draws = s.draws
  | .launch => t.launch = s.launch
  | .pending => t.pending = s.pending

/-- A frame: between s and t, every piece of state outside `changed` is unchanged. -/
def OnlyChanges (s t : State) (changed : Part → Prop) : Prop := ∀ p, ¬ changed p → p.Same s t

/-- A result with a function applied to its next state. -/
def mapNext (f : State → State) : Result → Result
  | .next t => .next (f t)
  | .fault c => .fault c
  | .refused r => .refused r

/-! ## Encoding formats (30_encoding.md R72): every opcode with these fixed bits is this instruction -/

/-- Format Z, mask 0xFFFF. -/
def DecodesZ (fixed : Word) (i : Instr) : Prop := decode fixed = some i

/-- Format A, mask 0xF000, operand NNN = op[11:0]. -/
def DecodesA (fixed : Word) (c : Addr12 → Instr) : Prop :=
  ∀ op : Word, op &&& 0xF000#16 = fixed → decode op = some (c (op.extractLsb' 0 12))

/-- Format XI, mask 0xF000, operands X = op[11:8] and NN = op[7:0]. -/
def DecodesXI (fixed : Word) (c : RegIdx → Byte → Instr) : Prop :=
  ∀ op : Word, op &&& 0xF000#16 = fixed → decode op = some (c (op.extractLsb' 8 4).toFin (op.extractLsb' 0 8))

/-- Format XY, mask 0xF00F, operands X = op[11:8] and Y = op[7:4]. -/
def DecodesXY (fixed : Word) (c : RegIdx → RegIdx → Instr) : Prop :=
  ∀ op : Word, op &&& 0xF00F#16 = fixed → decode op = some (c (op.extractLsb' 8 4).toFin (op.extractLsb' 4 4).toFin)

/-- Format XYN, mask 0xF000, operands X = op[11:8], Y = op[7:4] and N = op[3:0]. -/
def DecodesXYN (fixed : Word) (c : RegIdx → RegIdx → BitVec 4 → Instr) : Prop :=
  ∀ op : Word, op &&& 0xF000#16 = fixed →
    decode op = some (c (op.extractLsb' 8 4).toFin (op.extractLsb' 4 4).toFin (op.extractLsb' 0 4))

/-- Format XS, mask 0xF0FF, operand X = op[11:8]. -/
def DecodesXS (fixed : Word) (c : RegIdx → Instr) : Prop :=
  ∀ op : Word, op &&& 0xF0FF#16 = fixed → decode op = some (c (op.extractLsb' 8 4).toFin)

/-- The X field of an instruction that has one (R71, R72). -/
def xField : Instr → Option RegIdx
  | .cls | .ret | .jp _ | .call _ | .ldI _ | .jpV0 _ => none
  | .seImm x _ | .sneImm x _ | .ldImm x _ | .addImm x _ | .rnd x _ => some x
  | .seReg x _ | .sneReg x _ | .ldReg x _ | .orReg x _ | .andReg x _ | .xorReg x _ => some x
  | .addReg x _ | .sub x _ | .shr x _ | .subn x _ | .shl x _ | .drw x _ _ => some x
  | .skp x | .sknp x | .ldVxDt x | .ldDtVx x | .ldStVx x | .ldVxK x | .addI x | .ldF x | .ldB x => some x
  | .stRegs x | .ldRegs x => some x

/-! ## Safe and parked states (60_exceptions.md R208, 70_reset_and_hazards.md R236) -/

/-- The core has not faulted: a claim about a program takes this as something to prove or assume (R208). -/
abbrev State.Safe (s : State) : Prop := s.status ≠ .halted

/-- A parked state: Running, and the opcode at pc is a 1NNN whose target is pc (R236). -/
abbrev State.Parked (s : State) : Prop :=
  s.status = .running ∧ s.pc.toNat ≤ 0xFFE ∧
    (s.mem.read s.pc.toNat).toNat = 0x10 + s.pc.toNat / 256 ∧ (s.mem.read (s.pc.toNat + 1)).toNat = s.pc.toNat % 256

/-! ## The invariant of the core (10_state.md R30, R31, R36; 40_step_cycle.md R100; 70_reset_and_hazards.md R231, R235) -/

/-- Before the first STEP everything but memory and the keypad is as RESET left it (R235). -/
abbrev State.InLaunch (s : State) : Prop :=
  s.v = State.reset.v ∧ s.i = 0 ∧ s.pc = State.reset.pc ∧ s.sp = 0 ∧ s.stack = State.reset.stack ∧
    s.fb = FrameBuffer.clear ∧ s.dt = 0 ∧ s.st = 0 ∧ s.status = .running

/-- While the core awaits a key, the instruction at pc is an FX0A (R100). -/
def State.WaitsAtFX0A (s : State) : Prop := s.fetchOk = true ∧ ∃ x, decode s.fetchOpcode = some (.ldVxK x)

/-- What holds after every command: memory is canonical and inside the address space; fault_cause is nonzero exactly in
Halted (R31); the launch premises hold until the first STEP (R235); AwaitKey is left on an FX0A only (R100). -/
def State.Inv (s : State) : Prop :=
  s.mem.wf = true ∧ (s.faultCause ≠ .none ↔ s.status = .halted) ∧ (s.launch ≠ .stepped → s.InLaunch) ∧
    (s.status = .awaitKey → s.WaitsAtFX0A)

/-! ## Sprites (44_display.md R171) -/

/-- DXYN at this state has a sprite bit equal to 1 on pixel k: some row and column offset of the sprite has its bit set
and its wrapped pixel is k (R171; 92 D13). -/
def SpriteCovers (s : State) (x y : RegIdx) (n : BitVec 4) (k : Nat) : Prop :=
  ∃ row col : Nat, row < n.toNat ∧ col < 8 ∧ (s.mem.read (s.i.toNat + row)).getLsbD (7 - col) = true ∧
    ((s.getV y).toNat + row) % 32 * 64 + ((s.getV x).toNat + col) % 64 = k

end Sys2Proof.Machine
end

