-- ==== Sys2Proof/Certificates/Slice0/Obligations.lean ====
section
/-! DEFINITION. The statements for the provers. Each docstring names the rule of spec/ it formalises; where a clause
rests on a decision or an inference the spec marks as its own, the docstring names that mark (D<n> is a row of
92_eei_decisions.md). The executor's frame clause OnlyChanges lists every part of the state that may change; every other
register, timer, control register, stack entry, key, pixel and byte of memory is unchanged. -/

open Sys2Proof Sys2Proof.Machine

/-! ## Encoding (30_encoding.md) -/

/-- 30_encoding.md sections 1 to 3: decoding the encoding of an instruction gives it back with every operand, and its two
big-endian bytes followed by anything decode to it and leave the rest. -/
def Obligations.DecodeOfEncodeIsTheInstruction : Prop :=
  ∀ i : Instr, decode (encode i) = some i ∧
    ∀ rest : List Byte, decodeBytes (opcodeBytes (encode i) ++ rest) = .ok (i, rest)

/-- 30_encoding.md sections 1 to 3: each opcode that decodes is the encoding of what it decodes to, so no two opcodes stand
for one instruction and no bit of an opcode is dropped. -/
def Obligations.EncodeOfDecodeIsTheOpcode : Prop :=
  ∀ (op : Word) (i : Instr), decode op = some i → encode i = op

/-- 30_encoding.md section 3 (the opcode map): the map has 34 rows, pairwise disjoint, and an opcode that matches a row by
mask decodes to an instruction with that row's mnemonic (D5, D19). -/
def Obligations.OpcodeMapRowsDecodeToTheirMnemonic : Prop :=
  opcodeTable.length = 34 ∧
    opcodeTable.Pairwise (fun r r' => ∀ op : Word, ¬ (r.matchesOp op = true ∧ r'.matchesOp op = true)) ∧
    ∀ (op : Word) (r : OpcodeRow), r ∈ opcodeTable → r.matchesOp op = true →
      ∃ i, decode op = some i ∧ mnemonicOf i = r.mnemonic

/-- 30_encoding.md section 3 (decode misses): an opcode is a decode miss exactly when it matches no row of the map, and
exactly when it is in the table of decode misses by family (D5). -/
def Obligations.DecodeMissExactlyWhenNoRowMatches : Prop :=
  ∀ op : Word,
    (decode op = none ↔ opcodeWellFormed op = false) ∧
    (decode op = none ↔
      (op.toNat / 4096 = 0x0 ∧ op.toNat ≠ 0x00E0 ∧ op.toNat ≠ 0x00EE) ∨
      (op.toNat / 4096 = 0x5 ∧ op.toNat % 16 ≠ 0) ∨
      (op.toNat / 4096 = 0x8 ∧ op.toNat % 16 ∈ [0x8, 0x9, 0xA, 0xB, 0xC, 0xD, 0xF]) ∨
      (op.toNat / 4096 = 0x9 ∧ op.toNat % 16 ≠ 0) ∨
      (op.toNat / 4096 = 0xE ∧ op.toNat % 256 ∉ [0x9E, 0xA1]) ∨
      (op.toNat / 4096 = 0xF ∧ op.toNat % 256 ∉ [0x07, 0x0A, 0x15, 0x18, 0x1E, 0x29, 0x33, 0x55, 0x65]))

/-- 30_encoding.md section 1 and 00_scope.md section 5: the fields are op[15:12], op[11:8], op[7:4], op[3:0], op[7:0] and
op[11:0], unsigned (D4). -/
def Obligations.FieldsAreTheirBitRanges : Prop :=
  ∀ op : Word,
    (fieldFamily op).toNat = op.toNat / 4096 ∧ (fieldX op).val = op.toNat / 256 % 16 ∧
    (fieldY op).val = op.toNat / 16 % 16 ∧ (fieldN op).toNat = op.toNat % 16 ∧
    (fieldNN op).toNat = op.toNat % 256 ∧ (fieldNNN op).toNat = op.toNat % 4096

/-- 95_test_vectors.md sections 2.1 to 2.8 (sanity): at least one opcode of each of the sixteen families op[15:12], read off
the map, and one of the timer instructions, decodes to its instruction; and three opcodes that match no row exactly do not
decode (D5, 90 C5; log entry 9). -/
def Obligations.SampleOpcodesDecode : Prop :=
  (decode 0x00E0 = some .cls ∧ decode 0x1ABC = some (.jp 0xABC) ∧ decode 0x2300 = some (.call 0x300) ∧
    decode 0x3A42 = some (.seImm 0xA 0x42) ∧ decode 0x4A42 = some (.sneImm 0xA 0x42) ∧
    decode 0x5120 = some (.seReg 1 2) ∧ decode 0x6A42 = some (.ldImm 0xA 0x42) ∧
    decode 0x7A01 = some (.addImm 0xA 0x01) ∧ decode 0x8124 = some (.addReg 1 2) ∧
    decode 0x9120 = some (.sneReg 1 2) ∧ decode 0xA123 = some (.ldI 0x123) ∧ decode 0xB300 = some (.jpV0 0x300) ∧
    decode 0xC10F = some (.rnd 1 0x0F) ∧ decode 0xD123 = some (.drw 1 2 3) ∧ decode 0xE1A1 = some (.sknp 1) ∧
    decode 0xF265 = some (.ldRegs 2) ∧ decode 0xF107 = some (.ldVxDt 1)) ∧
  decode 0x0000 = none ∧ decode 0x5121 = none ∧ decode 0xF175 = none

/-! ## The STEP command (40_step_cycle.md) -/

/-- 40_step_cycle.md section 2: when the opcode at pc decodes to i and the core is not halted, a STEP is exec of i on the
state whose rand input, report, launch phase and opcode latch the STEP has set (endStepResult then withdraws the rand
input), and a step of the machine is the oldest pending command, or that STEP with a free rand byte when none is pending
(the model's own interface, log entries 2 and 3). -/
def Obligations.StepRunsTheDecodedInstruction : Prop :=
  ∀ (s : State) (i : Instr) (rand : Byte), s.status ≠ .halted → s.pc.toNat ≤ 0xFFE → decode s.fetchOpcode = some i →
    stepCommand rand s = endStepResult (exec i { s.beginStep rand with opcode := s.fetchOpcode }) ∧
    (∀ rest, s.pending = .step rand :: rest → step s = stepCommand rand { s with pending := rest }) ∧
    (s.pending = [] → step s = stepCommand (Config.freeRand s.draws) { s with draws := s.draws + 1 })

/-- 40_step_cycle.md section 2 (fetch; D8, D9 for the fault): with pc at most 0xFFE the fetch latches the big-endian opcode at pc; with pc above it the STEP raises
FetchFault, which changes nothing of the core but status and fault_cause. -/
def Obligations.FetchIsBigEndianOrFaults : Prop :=
  ∀ (s : State) (rand : Byte), s.status ≠ .halted →
    (s.pc.toNat ≤ 0xFFE → ∃ t, stepCommand rand s = .next t ∧
      t.opcode = (zext16 (s.mem.read s.pc.toNat) <<< 8) ||| zext16 (s.mem.read (s.pc.toNat + 1))) ∧
    (0xFFE < s.pc.toNat → ∃ t, stepCommand rand s = .next t ∧ t.status = .halted ∧ t.faultCause = .fetchFault ∧
      OnlyChanges s t (fun p => p = .status ∨ p = .faultCause ∨ p = .report ∨ p = .rand ∨ p = .launch))

/-- R77: the Y field of 8XY6 and 8XYE is ignored, and the whole effect of a decode miss is the report and pc + 2. -/
def Obligations.IgnoredYFieldAndDecodeMiss : Prop :=
  (∀ (x y y' : RegIdx) (s : State), exec (.shr x y) s = exec (.shr x y') s ∧ exec (.shl x y) s = exec (.shl x y') s) ∧
  (∀ (s : State) (rand : Byte), s.status ≠ .halted → s.pc.toNat ≤ 0xFFE → decode s.fetchOpcode = none →
    ∃ t, stepCommand rand s = .next t ∧ t.pc = s.pc + 2 ∧ t.report = some (.decodeMiss s.fetchOpcode) ∧
      t.status = .running ∧
      OnlyChanges s t (fun p => p = .pc ∨ p = .status ∨ p = .opcode ∨ p = .report ∨ p = .rand ∨ p = .launch))

/-- 60_exceptions.md section 3 (behaviour in Halted, D15): STEP, TICK and LOAD change nothing and report nothing, and KEY
writes its key only. -/
def Obligations.HaltedCoreIgnoresCommands : Prop :=
  ∀ (s : State), s.status = .halted →
    (∀ c, (∃ r, c = .step r) ∨ c = .tick ∨ (∃ bytes, c = .load bytes) →
      ∃ t, runCommand c s = .next t ∧ t.report = none ∧ OnlyChanges s t (fun p => p = .report)) ∧
    (∀ k pressed, ∃ t, runCommand (.key k pressed) s = .next t ∧ t.key[k] = pressed ∧ t.report = none ∧
      OnlyChanges s t (fun p => p = .key k ∨ p = .report))

/-- 60_exceptions.md section 3 (return and nesting; D15): no command but RESET resumes a halted core, and fault_cause keeps
the first fault; RESET discards all state of the core. That RESET keeps the pending commands and the count of rand bytes
taken, the model's own fields, is the model's choice (log entries 2 and 3). -/
def Obligations.OnlyResetLeavesHalted : Prop :=
  ∀ (s t : State) (c : Command), s.status = .halted → runCommand c s = .next t →
    (c ≠ .reset → t.status = .halted ∧ t.faultCause = s.faultCause ∧ t.pc = s.pc) ∧
    (c = .reset → t = { State.reset with pending := s.pending, draws := s.draws })

/-- 70_reset_and_hazards.md section 5 (liveness): every instruction and every command completes, but a LOAD outside the
launch order, which the model refuses (93 U12, log entry 5); with no command pending a step always completes. -/
def Obligations.EveryCommandCompletes : Prop :=
  (∀ (i : Instr) (s : State), ∃ t, exec i s = .next t) ∧
  (∀ (c : Command) (s : State), (∃ t, runCommand c s = .next t) ∨
    (∃ bytes, c = .load bytes ∧ s.status ≠ .halted ∧ s.launch ≠ .fresh ∧
      runCommand c s = .refused .loadOutsideLaunch)) ∧
  (∀ s : State, s.pending = [] → ∃ t, step s = .next t)

/-- 10_state.md section 6, 40_step_cycle.md section 2 (status update), 70_reset_and_hazards.md section 5: the invariant is
kept by every step: memory canonical and inside 0x000 to 0xFFF, fault_cause nonzero exactly in Halted, the launch
premises until the first STEP, and an FX0A at pc while the core awaits a key. -/
def Obligations.EveryStepKeepsInv : Prop :=
  ∀ s t : State, s.Inv → step s = .next t → t.Inv

/-- The invariant holds after RESET. -/
def Obligations.ResetHasInv : Prop := State.reset.Inv

/-! ## Who writes what (10_state.md, 60_exceptions.md) -/

/-- 10_state.md section 2 (the index register; derived there): no instruction but ANNN, FX1E and FX29 changes I. -/
def Obligations.OnlyIndexInstructionsWriteI : Prop :=
  ∀ (i : Instr) (s t : State), exec i s = .next t → t.i ≠ s.i →
    (∃ nnn, i = .ldI nnn) ∨ (∃ x, i = .addI x) ∨ (∃ x, i = .ldF x)

/-- 10_state.md section 2 (the call stack; D6): 2NNN is the only instruction that writes a stack entry and increments sp,
00EE the only one that decrements sp. -/
def Obligations.OnlyCallAndReturnTouchTheStack : Prop :=
  ∀ (i : Instr) (s t : State), exec i s = .next t →
    (t.stack ≠ s.stack → ∃ nnn, i = .call nnn) ∧
    (t.sp ≠ s.sp → (∃ nnn, i = .call nnn ∧ t.sp.val = s.sp.val + 1) ∨ (i = .ret ∧ t.sp.val + 1 = s.sp.val))

/-- 10_state.md section 3 (main memory), 20_memory.md section 2: among instructions only FX33 and FX55 change memory, and
among commands besides STEP only RESET and LOAD. -/
def Obligations.OnlyStoresWriteMemory : Prop :=
  (∀ (i : Instr) (s t : State), exec i s = .next t → t.mem ≠ s.mem → (∃ x, i = .ldB x) ∨ (∃ x, i = .stRegs x)) ∧
  (∀ (s t : State) (k : KeyIdx) (pressed : Bool),
    (runCommand (.key k pressed) s = .next t ∨ runCommand .tick s = .next t) → t.mem = s.mem)

/-- 10_state.md section 1 (VF, the flag): VF is written as a side effect by the five flag instructions and DXYN alone, each writing 0 or 1 (where X is not
0xF; DXYN always), and otherwise only by an instruction whose X field is 0xF; VF is 0 after RESET. -/
def Obligations.VfWriters : Prop :=
  (∀ (i : Instr) (s t : State), exec i s = .next t → t.getV regVF ≠ s.getV regVF →
    (∃ x y, i = .addReg x y ∨ i = .sub x y ∨ i = .shr x y ∨ i = .subn x y ∨ i = .shl x y) ∨
      (∃ x y n, i = .drw x y n) ∨ xField i = some regVF) ∧
  (∀ (i : Instr) (x y : RegIdx) (s t : State), x ≠ regVF →
    (i = .addReg x y ∨ i = .sub x y ∨ i = .shr x y ∨ i = .subn x y ∨ i = .shl x y) → exec i s = .next t →
      t.getV regVF = 0 ∨ t.getV regVF = 1) ∧
  (∀ (x y : RegIdx) (n : BitVec 4) (s t : State), exec (.drw x y n) s = .next t → t.status ≠ .halted →
    t.getV regVF = 0 ∨ t.getV regVF = 1) ∧
  State.reset.getV regVF = 0

/-- R173: only 00E0 and DXYN write the framebuffer, RESET clears it, the other commands leave it alone; every computed
index is in 0 to 2047; FX55 cannot write it, and what FX65 and DXYN fetch does not depend on it. -/
def Obligations.FrameBufferWriters : Prop :=
  (∀ (i : Instr) (s t : State), exec i s = .next t → t.fb ≠ s.fb → i = .cls ∨ ∃ x y n, i = .drw x y n) ∧
  (∀ (s t : State) (c : Command), runCommand c s = .next t → (∀ r, c ≠ .step r) → c ≠ .reset → t.fb = s.fb) ∧
  (∀ (s t : State), runCommand .reset s = .next t → ∀ k, t.fb.pixel k = false) ∧
  (∀ column row : Nat, pixelIndex column row = row % 32 * 64 + column % 64 ∧ pixelIndex column row < 2048) ∧
  (∀ (x : RegIdx) (s : State) (f : FrameBuffer),
    exec (.stRegs x) { s with fb := f } = mapNext (fun t => { t with fb := f }) (exec (.stRegs x) s) ∧
    exec (.ldRegs x) { s with fb := f } = mapNext (fun t => { t with fb := f }) (exec (.ldRegs x) s)) ∧
  (∀ (x y : RegIdx) (n : BitVec 4) (s t u : State) (f : FrameBuffer),
    exec (.drw x y n) s = .next t → exec (.drw x y n) { s with fb := f } = .next u →
      ∀ k : Fin 2048, (u.fb.pixel k.val ^^ f.pixel k.val) = (t.fb.pixel k.val ^^ s.fb.pixel k.val))

/-- 10_state.md section 3 (the keypad): no instruction writes the keypad, only KEY and RESET do; every instruction but EX9E, EXA1 and FX0A answers the same
whatever the keypad holds; every key is released after RESET. -/
def Obligations.KeypadWriters : Prop :=
  (∀ (i : Instr) (s t : State), exec i s = .next t → t.key = s.key) ∧
  (∀ (s t : State) (c : Command), runCommand c s = .next t → c ≠ .reset → (∀ k b, c ≠ .key k b) → t.key = s.key) ∧
  (∀ (s : State) (k : KeyIdx) (b : Bool), ∃ t, runCommand (.key k b) s = .next t ∧ t.key[k] = b ∧
    ∀ j : KeyIdx, j ≠ k → t.key[j] = s.key[j]) ∧
  (∀ (i : Instr) (s : State) (keys : Vector Bool 16),
    (∀ x, i ≠ .skp x) → (∀ x, i ≠ .sknp x) → (∀ x, i ≠ .ldVxK x) →
      exec i { s with key := keys } = mapNext (fun t => { t with key := keys }) (exec i s)) ∧
  (∀ k : KeyIdx, State.reset.key[k] = false)

/-- 10_state.md section 4 (the timers): FX15 alone of the instructions writes DT and FX18 alone writes ST, FX07 reads DT, no instruction reads ST; TICK
decrements each timer that is not zero; the host reads both; both are 0 after RESET. -/
def Obligations.TimersReadAndWritten : Prop :=
  (∀ (i : Instr) (s t : State), exec i s = .next t →
    (t.dt ≠ s.dt → ∃ x, i = .ldDtVx x) ∧ (t.st ≠ s.st → ∃ x, i = .ldStVx x)) ∧
  (∀ (x : RegIdx) (s : State),
    (∃ t, exec (.ldDtVx x) s = .next t ∧ t.dt = s.getV x) ∧ (∃ t, exec (.ldStVx x) s = .next t ∧ t.st = s.getV x) ∧
    (∃ t, exec (.ldVxDt x) s = .next t ∧ t.getV x = s.dt)) ∧
  (∀ (i : Instr) (s : State) (b : Byte), (∀ x, i ≠ .ldStVx x) →
    exec i { s with st := b } = mapNext (fun t => { t with st := b }) (exec i s)) ∧
  (∀ (x : RegIdx) (s : State) (b : Byte), exec (.ldStVx x) { s with st := b } = exec (.ldStVx x) s) ∧
  (∀ s : State, s.status ≠ .halted → ∃ t, runCommand .tick s = .next t ∧
    t.dt.toNat = s.dt.toNat - 1 ∧ t.st.toNat = s.st.toNat - 1) ∧
  (∀ s : State, portTimers s = (s.dt, s.st)) ∧ portTimers State.reset = (0, 0)

/-- 40_step_cycle.md section 2 (the rand input, D3): every instruction but CXNN answers the same whatever the rand byte. -/
def Obligations.RandReadOnlyByRnd : Prop :=
  ∀ (i : Instr) (s : State) (r : Byte), (∀ x nn, i ≠ .rnd x nn) →
    exec i { s with rand := r } = mapNext (fun t => { t with rand := r }) (exec i s)

/-! ## Faults, status, the end of a run -/

/-- 40_step_cycle.md section 2 (faults inside STEP; D8, D9, D10): a STEP that halts the core changes status, fault_cause and at most the opcode latch, and its cause is FetchFault
with the latch unchanged, or the fault of the instruction fetched: StackOverflow of 2NNN, StackUnderflow of 00EE,
MemFault of DXYN, FX33, FX55 or FX65, KeyIndexFault of EX9E or EXA1. -/
def Obligations.FaultsInsideStep : Prop :=
  ∀ (s t : State) (rand : Byte), s.status ≠ .halted → stepCommand rand s = .next t → t.status = .halted →
    OnlyChanges s t (fun p => p = .status ∨ p = .faultCause ∨ p = .opcode ∨ p = .report ∨ p = .rand ∨ p = .launch) ∧
    ((0xFFE < s.pc.toNat ∧ t.faultCause = .fetchFault ∧ t.opcode = s.opcode) ∨
      (s.pc.toNat ≤ 0xFFE ∧ t.opcode = s.fetchOpcode ∧ ∃ i, decode s.fetchOpcode = some i ∧
        ((t.faultCause = .stackOverflow ∧ ∃ nnn, i = .call nnn) ∨
         (t.faultCause = .stackUnderflow ∧ i = .ret) ∨
         (t.faultCause = .memFault ∧
           ((∃ x y n, i = .drw x y n) ∨ (∃ x, i = .ldB x) ∨ (∃ x, i = .stRegs x) ∨ (∃ x, i = .ldRegs x))) ∨
         (t.faultCause = .keyIndexFault ∧ ((∃ x, i = .skp x) ∨ (∃ x, i = .sknp x))))))

/-- 40_step_cycle.md section 2 (status update): a STEP that does not fault leaves AwaitKey exactly when it executed FX0A
with no key pressed, and Running in every other case. -/
def Obligations.StatusAfterStep : Prop :=
  ∀ (s t : State) (rand : Byte), s.status ≠ .halted → stepCommand rand s = .next t → t.status ≠ .halted →
    (t.status = .awaitKey ↔ (∃ x, decode s.fetchOpcode = some (.ldVxK x)) ∧ ∀ k : KeyIdx, s.key[k] = false) ∧
    (t.status = .running ↔ ¬ ((∃ x, decode s.fetchOpcode = some (.ldVxK x)) ∧ ∀ k : KeyIdx, s.key[k] = false))

/-- 70_reset_and_hazards.md section 5 (the end of a run, D23): in a parked state a STEP changes nothing but the opcode latch
(and the model's own input and output fields) and leaves the core parked; TICK changes only the timers, KEY only its
key. -/
def Obligations.ParkedCoreStaysParked : Prop :=
  ∀ s : State, s.Parked →
    (∀ rand, ∃ t, stepCommand rand s = .next t ∧ t.Parked ∧
      OnlyChanges s t (fun p => p = .opcode ∨ p = .report ∨ p = .rand ∨ p = .launch)) ∧
    (∃ t, runCommand .tick s = .next t ∧ t.Parked ∧ OnlyChanges s t (fun p => p = .dt ∨ p = .st ∨ p = .report)) ∧
    (∀ k b, ∃ t, runCommand (.key k b) s = .next t ∧ t.Parked ∧ OnlyChanges s t (fun p => p = .key k ∨ p = .report))

/-- 20_memory.md section 3 (instruction-fetch coherence, derived there): an FX55 that stores at the next instruction's
address is seen by the very next fetch. -/
def Obligations.StoredOpcodeIsFetchedNext : Prop :=
  ∀ (s : State) (x : RegIdx), 1 ≤ x.val → s.i = s.pc + 2 → s.pc.toNat + 2 + x.val ≤ 0xFFF →
    ∃ t, exec (.stRegs x) s = .next t ∧ t.pc = s.pc + 2 ∧ t.fetchOk = true ∧
      t.fetchOpcode = opcodeOfBytes (s.getV 0) (s.getV 1)

/-! ## The other commands -/

/-- R230: RESET puts every piece of state at its reset value: the entry point 0x200, status Running, memory zero but for the
font parameter at 0x050, everything else 0. The font bytes themselves are log entry 6. -/
def Obligations.ResetCommandSetsEveryPiece : Prop :=
  ∀ s : State, ∃ t, runCommand .reset s = .next t ∧
    (∀ r, t.getV r = 0) ∧ t.i = 0 ∧ t.pc = 0x200 ∧ t.sp = 0 ∧ (∀ k : Fin 16, t.stack[k] = 0) ∧
    (∀ a, t.mem.read a = if 0x050 ≤ a ∧ a < 0x0A0 then Config.font.getD (a - 0x050) 0 else 0) ∧
    (∀ k, t.fb.pixel k = false) ∧ (∀ k : KeyIdx, t.key[k] = false) ∧ t.dt = 0 ∧ t.st = 0 ∧ t.opcode = 0 ∧
    t.status = .running ∧ t.faultCause = .none ∧ t.report = none

/-- 40_step_cycle.md section 1 (LOAD; D15, D17, 93 U12, log entry 5): in the launch, a program of at most 3584 bytes is
copied from 0x200 on and nothing else changes; a longer one writes nothing and is reported; outside the launch LOAD is
refused, and in Halted it does nothing. -/
def Obligations.LoadCopiesTheProgram : Prop :=
  ∀ (s : State) (bytes : List Byte),
    (s.status ≠ .halted → s.launch = .fresh → bytes.length ≤ 3584 →
      ∃ t, runCommand (.load bytes) s = .next t ∧
        (∀ a, t.mem.read a = if 0x200 ≤ a ∧ a < 0x200 + bytes.length then bytes.getD (a - 0x200) 0 else s.mem.read a) ∧
        t.report = none ∧ t.launch = .loaded ∧
        OnlyChanges s t (fun p => p = .report ∨ p = .launch ∨ ∃ a, p = .memByte a)) ∧
    (s.status ≠ .halted → s.launch = .fresh → 3584 < bytes.length →
      ∃ t, runCommand (.load bytes) s = .next t ∧ t.report = some .loadError ∧ OnlyChanges s t (fun p => p = .report)) ∧
    (s.status ≠ .halted → s.launch ≠ .fresh → runCommand (.load bytes) s = .refused .loadOutsideLaunch) ∧
    (s.status = .halted →
      ∃ t, runCommand (.load bytes) s = .next t ∧ t.report = none ∧ OnlyChanges s t (fun p => p = .report))

/-- 40_step_cycle.md section 1 (KEY, D15): KEY sets the level of its key in every status and changes nothing else. -/
def Obligations.KeySetsItsLevel : Prop :=
  ∀ (s : State) (k : KeyIdx) (pressed : Bool), ∃ t, runCommand (.key k pressed) s = .next t ∧ t.key[k] = pressed ∧
    t.report = none ∧ OnlyChanges s t (fun p => p = .key k ∨ p = .report)

/-- 46_timers.md section 2 (TICK; D15 in Halted): each timer goes down by one and stops at 0, and the report sound_edge is
emitted exactly when ST goes from 1 to 0; nothing else changes. -/
def Obligations.TickCountsDown : Prop :=
  ∀ s : State, ∃ t, runCommand .tick s = .next t ∧ OnlyChanges s t (fun p => p = .dt ∨ p = .st ∨ p = .report) ∧
    (s.status ≠ .halted → t.dt.toNat = s.dt.toNat - 1 ∧ t.st.toNat = s.st.toNat - 1 ∧
      (s.st = 1 → t.report = some .soundEdge ∧ t.st = 0) ∧ (s.st ≠ 1 → t.report = none)) ∧
    (s.status = .halted → t.dt = s.dt ∧ t.st = s.st ∧ t.report = none)

/-- R203: nothing outside the instruction stream changes pc or transfers control: TICK changes DT and ST only, KEY changes
its key only, and neither they nor a LOAD touch pc, status or the stack. -/
def Obligations.NoInterrupts : Prop :=
  (∀ s t : State, runCommand .tick s = .next t →
    OnlyChanges s t (fun p => p = .dt ∨ p = .st ∨ p = .report) ∧ t.pc = s.pc ∧ t.status = s.status ∧
      t.stack = s.stack ∧ t.sp = s.sp) ∧
  (∀ (s t : State) (k : KeyIdx) (b : Bool), runCommand (.key k b) s = .next t →
    OnlyChanges s t (fun p => p = .key k ∨ p = .report) ∧ t.pc = s.pc ∧ t.status = s.status ∧
      t.stack = s.stack ∧ t.sp = s.sp) ∧
  (∀ (s t : State) (bytes : List Byte), runCommand (.load bytes) s = .next t →
    t.pc = s.pc ∧ t.status = s.status ∧ t.stack = s.stack ∧ t.sp = s.sp)

/-! ## Control transfer (41_control_flow.md) -/

/-- R110: 1NNN sets pc to NNN and changes nothing else. -/
def Obligations.JumpSetsPc : Prop :=
  DecodesA 0x1000 .jp ∧
  ∀ (nnn : Addr12) (s : State), ∃ t, exec (.jp nnn) s = .next t ∧ t.pc.toNat = nnn.toNat ∧ t.status = .running ∧
    OnlyChanges s t (fun p => p = .pc ∨ p = .status)

/-- 41_control_flow.md section 1 (2NNN; D6, D8, D9): with sp below 16 the address of the next instruction is pushed and pc
set to NNN; with sp = 16 StackOverflow and nothing else. -/
def Obligations.CallPushesTheReturnAddress : Prop :=
  DecodesA 0x2000 .call ∧
  ∀ (nnn : Addr12) (s : State),
    (∀ h : s.sp.val < 16, ∃ t, exec (.call nnn) s = .next t ∧ t.stack[s.sp.val]'h = s.pc + 2 ∧
      t.sp.val = s.sp.val + 1 ∧ t.pc.toNat = nnn.toNat ∧ t.status = .running ∧
      OnlyChanges s t (fun p => p = .pc ∨ p = .status ∨ p = .sp ∨ p = .stackEntry ⟨s.sp.val, h⟩)) ∧
    (s.sp.val = 16 → ∃ t, exec (.call nnn) s = .next t ∧ t.status = .halted ∧ t.faultCause = .stackOverflow ∧
      OnlyChanges s t (fun p => p = .status ∨ p = .faultCause))

/-- 41_control_flow.md section 1 (00EE; D6, D8, D9): with sp above 0 the top entry is popped into pc and not cleared; with
sp = 0 StackUnderflow and nothing else. -/
def Obligations.ReturnPopsIntoPc : Prop :=
  DecodesZ 0x00EE .ret ∧
  ∀ s : State,
    (∀ h : 0 < s.sp.val, ∃ t, exec .ret s = .next t ∧ t.pc = s.stack[s.sp.val - 1]'(by omega) ∧
      t.sp.val + 1 = s.sp.val ∧ t.status = .running ∧ OnlyChanges s t (fun p => p = .pc ∨ p = .status ∨ p = .sp)) ∧
    (s.sp.val = 0 → ∃ t, exec .ret s = .next t ∧ t.status = .halted ∧ t.faultCause = .stackUnderflow ∧
      OnlyChanges s t (fun p => p = .status ∨ p = .faultCause))

/-- 41_control_flow.md section 1 (2NNN and 00EE; D6, 90 C1): a RET after a CALL resumes at the instruction after the CALL,
with sp restored. -/
def Obligations.ReturnAfterCallResumes : Prop :=
  ∀ (nnn : Addr12) (s : State) (h : s.sp.val < 16), ∃ t u, exec (.call nnn) s = .next t ∧ exec .ret t = .next u ∧
    u.pc = s.pc + 2 ∧ u.sp = s.sp ∧ OnlyChanges s u (fun p => p = .pc ∨ p = .status ∨ p = .stackEntry ⟨s.sp.val, h⟩)

/-- 41_control_flow.md section 1 (BNNN; D11): pc becomes NNN + V0, not reduced to 12 bits. -/
def Obligations.JumpV0AddsV0 : Prop :=
  DecodesA 0xB000 .jpV0 ∧
  ∀ (nnn : Addr12) (s : State), ∃ t, exec (.jpV0 nnn) s = .next t ∧ t.pc.toNat = nnn.toNat + (s.getV 0).toNat ∧
    t.status = .running ∧ OnlyChanges s t (fun p => p = .pc ∨ p = .status)

/-- R114, R115: 3XNN skips when VX equals NN, 4XNN when it does not; pc goes on by 4 or by 2 and nothing else changes. -/
def Obligations.SkipsOnImmediate : Prop :=
  DecodesXI 0x3000 .seImm ∧ DecodesXI 0x4000 .sneImm ∧
  ∀ (x : RegIdx) (nn : Byte) (s : State),
    (∃ t, exec (.seImm x nn) s = .next t ∧ t.status = .running ∧ OnlyChanges s t (fun p => p = .pc ∨ p = .status) ∧
      (s.getV x = nn → t.pc = s.pc + 4) ∧ (s.getV x ≠ nn → t.pc = s.pc + 2)) ∧
    (∃ t, exec (.sneImm x nn) s = .next t ∧ t.status = .running ∧ OnlyChanges s t (fun p => p = .pc ∨ p = .status) ∧
      (s.getV x ≠ nn → t.pc = s.pc + 4) ∧ (s.getV x = nn → t.pc = s.pc + 2))

/-- 41_control_flow.md section 2 (5XY0, 9XY0): 5XY0 skips when VX equals VY, 9XY0 when it does not; 5XYN and 9XYN with N not
0 are decode misses (exact patterns: D5, 90 C5; log entry 9). -/
def Obligations.SkipsOnRegisters : Prop :=
  DecodesXY 0x5000 .seReg ∧ DecodesXY 0x9000 .sneReg ∧
  (∀ op : Word, (op.toNat / 4096 = 5 ∨ op.toNat / 4096 = 9) → op.toNat % 16 ≠ 0 → decode op = none) ∧
  ∀ (x y : RegIdx) (s : State),
    (∃ t, exec (.seReg x y) s = .next t ∧ t.status = .running ∧ OnlyChanges s t (fun p => p = .pc ∨ p = .status) ∧
      (s.getV x = s.getV y → t.pc = s.pc + 4) ∧ (s.getV x ≠ s.getV y → t.pc = s.pc + 2)) ∧
    (∃ t, exec (.sneReg x y) s = .next t ∧ t.status = .running ∧ OnlyChanges s t (fun p => p = .pc ∨ p = .status) ∧
      (s.getV x ≠ s.getV y → t.pc = s.pc + 4) ∧ (s.getV x = s.getV y → t.pc = s.pc + 2))

/-! ## Loads, arithmetic, logic, shifts, random (42_alu.md) -/

/-- R131, R132, R133: 6XNN sets VX to NN, 7XNN adds NN to VX modulo 256 with no flag, 8XY0 sets VX to VY; pc goes on by 2
and nothing else changes, VF included unless it is the destination. -/
def Obligations.LoadsAndAddImmediate : Prop :=
  DecodesXI 0x6000 .ldImm ∧ DecodesXI 0x7000 .addImm ∧ DecodesXY 0x8000 .ldReg ∧
  ∀ (x y : RegIdx) (nn : Byte) (s : State),
    (∃ t, exec (.ldImm x nn) s = .next t ∧ t.getV x = nn ∧ t.pc = s.pc + 2 ∧ t.status = .running ∧
      OnlyChanges s t (fun p => p = .reg x ∨ p = .pc ∨ p = .status)) ∧
    (∃ t, exec (.addImm x nn) s = .next t ∧ (t.getV x).toNat = ((s.getV x).toNat + nn.toNat) % 256 ∧ t.pc = s.pc + 2 ∧
      t.status = .running ∧ OnlyChanges s t (fun p => p = .reg x ∨ p = .pc ∨ p = .status)) ∧
    (∃ t, exec (.ldReg x y) s = .next t ∧ t.getV x = s.getV y ∧ t.pc = s.pc + 2 ∧ t.status = .running ∧
      OnlyChanges s t (fun p => p = .reg x ∨ p = .pc ∨ p = .status))

/-- R134, R135, R136: 8XY1, 8XY2 and 8XY3 set VX to the bitwise or, and, exclusive or of VX and VY; VF is neither written
nor cleared unless it is the destination. -/
def Obligations.LogicWritesVxOnly : Prop :=
  DecodesXY 0x8001 .orReg ∧ DecodesXY 0x8002 .andReg ∧ DecodesXY 0x8003 .xorReg ∧
  ∀ (x y : RegIdx) (s : State),
    (∃ t, exec (.orReg x y) s = .next t ∧
      (∀ j, (t.getV x).getLsbD j = ((s.getV x).getLsbD j || (s.getV y).getLsbD j)) ∧ t.pc = s.pc + 2 ∧
      t.status = .running ∧ OnlyChanges s t (fun p => p = .reg x ∨ p = .pc ∨ p = .status)) ∧
    (∃ t, exec (.andReg x y) s = .next t ∧
      (∀ j, (t.getV x).getLsbD j = ((s.getV x).getLsbD j && (s.getV y).getLsbD j)) ∧ t.pc = s.pc + 2 ∧
      t.status = .running ∧ OnlyChanges s t (fun p => p = .reg x ∨ p = .pc ∨ p = .status)) ∧
    (∃ t, exec (.xorReg x y) s = .next t ∧
      (∀ j, (t.getV x).getLsbD j = ((s.getV x).getLsbD j ^^ (s.getV y).getLsbD j)) ∧ t.pc = s.pc + 2 ∧
      t.status = .running ∧ OnlyChanges s t (fun p => p = .reg x ∨ p = .pc ∨ p = .status))

/-- 42_alu.md section 4 (8XY4; the order of the writes is D7, log entry 8): VX gets the sum modulo 256 and VF, when it is
not the destination, 1 exactly when the sum is above 255; operands are read first. -/
def Obligations.AddSetsCarry : Prop :=
  DecodesXY 0x8004 .addReg ∧
  ∀ (x y : RegIdx) (s : State), ∃ t, exec (.addReg x y) s = .next t ∧
    (t.getV x).toNat = ((s.getV x).toNat + (s.getV y).toNat) % 256 ∧
    (x ≠ regVF → t.getV regVF = if 255 < (s.getV x).toNat + (s.getV y).toNat then 1 else 0) ∧ t.pc = s.pc + 2 ∧
    t.status = .running ∧ OnlyChanges s t (fun p => p = .reg x ∨ p = .reg regVF ∨ p = .pc ∨ p = .status)

/-- 42_alu.md section 4 (8XY5, 8XY7; D7, log entry 8): VX gets VX - VY, respectively VY - VX, modulo 256, and VF, when it
is not the destination, 1 exactly when there is no borrow; operands are read first. -/
def Obligations.SubtractionsSetNoBorrow : Prop :=
  DecodesXY 0x8005 .sub ∧ DecodesXY 0x8007 .subn ∧
  ∀ (x y : RegIdx) (s : State),
    (∃ t, exec (.sub x y) s = .next t ∧
      (t.getV x).toNat = ((s.getV x).toNat + 256 - (s.getV y).toNat) % 256 ∧
      (x ≠ regVF → t.getV regVF = if (s.getV y).toNat ≤ (s.getV x).toNat then 1 else 0) ∧ t.pc = s.pc + 2 ∧
      t.status = .running ∧ OnlyChanges s t (fun p => p = .reg x ∨ p = .reg regVF ∨ p = .pc ∨ p = .status)) ∧
    (∃ t, exec (.subn x y) s = .next t ∧
      (t.getV x).toNat = ((s.getV y).toNat + 256 - (s.getV x).toNat) % 256 ∧
      (x ≠ regVF → t.getV regVF = if (s.getV x).toNat ≤ (s.getV y).toNat then 1 else 0) ∧ t.pc = s.pc + 2 ∧
      t.status = .running ∧ OnlyChanges s t (fun p => p = .reg x ∨ p = .reg regVF ∨ p = .pc ∨ p = .status))

/-- 42_alu.md section 4 (8XY6, 8XYE; D7, log entry 8): VX is halved, respectively doubled modulo 256, and VF, when it is
not the destination, gets the bit shifted out; VY is not used. -/
def Obligations.ShiftsSetTheBitOut : Prop :=
  DecodesXY 0x8006 .shr ∧ DecodesXY 0x800E .shl ∧
  ∀ (x y : RegIdx) (s : State),
    (∃ t, exec (.shr x y) s = .next t ∧ (t.getV x).toNat = (s.getV x).toNat / 2 ∧
      (x ≠ regVF → (t.getV regVF).toNat = (s.getV x).toNat % 2) ∧ t.pc = s.pc + 2 ∧ t.status = .running ∧
      OnlyChanges s t (fun p => p = .reg x ∨ p = .reg regVF ∨ p = .pc ∨ p = .status)) ∧
    (∃ t, exec (.shl x y) s = .next t ∧ (t.getV x).toNat = (s.getV x).toNat * 2 % 256 ∧
      (x ≠ regVF → (t.getV regVF).toNat = (s.getV x).toNat / 128) ∧ t.pc = s.pc + 2 ∧ t.status = .running ∧
      OnlyChanges s t (fun p => p = .reg x ∨ p = .reg regVF ∨ p = .pc ∨ p = .status))

/-- 42_alu.md section 6 (arithmetic laws): flag and result together are the exact sum, and the exact difference plus 256
for a borrow, where VF is not the destination. With Y = 0xF this rests on section 1: the operands are read before VF is
written and not again (D7, 90 C2, 93 U3 reading A; log entry 8). -/
def Obligations.FlagAndResultAreExact : Prop :=
  ∀ (x y : RegIdx) (s t : State), x ≠ regVF →
    (exec (.addReg x y) s = .next t →
      (t.getV regVF).toNat * 256 + (t.getV x).toNat = (s.getV x).toNat + (s.getV y).toNat) ∧
    (exec (.sub x y) s = .next t →
      (t.getV x).toNat + (s.getV y).toNat = (s.getV x).toNat + (1 - (t.getV regVF).toNat) * 256) ∧
    (exec (.subn x y) s = .next t →
      (t.getV x).toNat + (s.getV x).toNat = (s.getV y).toNat + (1 - (t.getV regVF).toNat) * 256) ∧
    (exec (.shr x y) s = .next t → (t.getV x).toNat * 2 + (t.getV regVF).toNat = (s.getV x).toNat) ∧
    (exec (.shl x y) s = .next t → (t.getV regVF).toNat * 256 + (t.getV x).toNat = (s.getV x).toNat * 2)

/-- R142: CXNN sets VX to the rand byte of the STEP and NN, whatever the byte; nothing else changes. -/
def Obligations.RandomByteIsMasked : Prop :=
  DecodesXI 0xC000 .rnd ∧
  (∀ (x : RegIdx) (nn : Byte) (s : State), ∃ t, exec (.rnd x nn) s = .next t ∧ t.getV x = s.rand &&& nn ∧
    t.pc = s.pc + 2 ∧ t.status = .running ∧ OnlyChanges s t (fun p => p = .reg x ∨ p = .pc ∨ p = .status)) ∧
  (∀ (x : RegIdx) (nn rand : Byte) (s : State), s.status ≠ .halted → s.pc.toNat ≤ 0xFFE →
    decode s.fetchOpcode = some (.rnd x nn) → ∃ t, stepCommand rand s = .next t ∧ t.getV x = rand &&& nn)

/-! ## Index register and memory (43_index_memory.md) -/

/-- R150: ANNN sets I to NNN and changes nothing else. -/
def Obligations.LoadIndexSetsI : Prop :=
  DecodesA 0xA000 .ldI ∧
  ∀ (nnn : Addr12) (s : State), ∃ t, exec (.ldI nnn) s = .next t ∧ t.i.toNat = nnn.toNat ∧ t.pc = s.pc + 2 ∧
    t.status = .running ∧ OnlyChanges s t (fun p => p = .index ∨ p = .pc ∨ p = .status)

/-- 43_index_memory.md section 1 (FX1E, D11; FX29, D12, log entry 7): FX1E adds VX to I modulo 65536 with no flag; FX29 sets
I to the constant FX29_BASE, 0 here, plus five times the whole byte VX. -/
def Obligations.AddIndexAndFontAddress : Prop :=
  DecodesXS 0xF01E .addI ∧ DecodesXS 0xF029 .ldF ∧ Config.fx29Base = 0 ∧
  ∀ (x : RegIdx) (s : State),
    (∃ t, exec (.addI x) s = .next t ∧ t.i.toNat = (s.i.toNat + (s.getV x).toNat) % 65536 ∧ t.pc = s.pc + 2 ∧
      t.status = .running ∧ OnlyChanges s t (fun p => p = .index ∨ p = .pc ∨ p = .status)) ∧
    (∃ t, exec (.ldF x) s = .next t ∧ t.i.toNat = (Config.fx29Base.toNat + (s.getV x).toNat * 5) % 65536 ∧
      t.pc = s.pc + 2 ∧ t.status = .running ∧ OnlyChanges s t (fun p => p = .index ∨ p = .pc ∨ p = .status))

/-- 43_index_memory.md section 2 (FX33; D8, D9 for the fault): the decimal digits of VX go to I, I+1, I+2 and no other byte
changes; MemFault and nothing else when I + 2 is above 0xFFF. -/
def Obligations.BcdDigitsAreStored : Prop :=
  DecodesXS 0xF033 .ldB ∧
  ∀ (x : RegIdx) (s : State),
    (s.i.toNat + 2 ≤ 0xFFF → ∃ t, exec (.ldB x) s = .next t ∧
      (t.mem.read s.i.toNat).toNat = (s.getV x).toNat / 100 ∧
      (t.mem.read (s.i.toNat + 1)).toNat = (s.getV x).toNat / 10 % 10 ∧
      (t.mem.read (s.i.toNat + 2)).toNat = (s.getV x).toNat % 10 ∧ t.pc = s.pc + 2 ∧ t.status = .running ∧
      OnlyChanges s t (fun p => p = .pc ∨ p = .status ∨ ∃ k, k < 3 ∧ p = .memByte (s.i.toNat + k))) ∧
    (0xFFF < s.i.toNat + 2 → ∃ t, exec (.ldB x) s = .next t ∧ t.status = .halted ∧ t.faultCause = .memFault ∧
      OnlyChanges s t (fun p => p = .status ∨ p = .faultCause))

/-- 43_index_memory.md section 2 (FX55; D8, D9 for the fault): V0 to VX go to I to I+X and no other byte changes, I and the
registers unchanged; MemFault and nothing else when I + X is above 0xFFF. -/
def Obligations.RegistersAreStored : Prop :=
  DecodesXS 0xF055 .stRegs ∧
  ∀ (x : RegIdx) (s : State),
    (s.i.toNat + x.val ≤ 0xFFF → ∃ t, exec (.stRegs x) s = .next t ∧
      (∀ k : RegIdx, k.val ≤ x.val → t.mem.read (s.i.toNat + k.val) = s.getV k) ∧ t.pc = s.pc + 2 ∧
      t.status = .running ∧
      OnlyChanges s t (fun p => p = .pc ∨ p = .status ∨ ∃ k, k ≤ x.val ∧ p = .memByte (s.i.toNat + k))) ∧
    (0xFFF < s.i.toNat + x.val → ∃ t, exec (.stRegs x) s = .next t ∧ t.status = .halted ∧ t.faultCause = .memFault ∧
      OnlyChanges s t (fun p => p = .status ∨ p = .faultCause))

/-- 43_index_memory.md section 2 (FX65; D8, D9 for the fault): V0 to VX are loaded from I to I+X, the registers above VX,
I and memory unchanged; MemFault and nothing else when I + X is above 0xFFF. -/
def Obligations.RegistersAreLoaded : Prop :=
  DecodesXS 0xF065 .ldRegs ∧
  ∀ (x : RegIdx) (s : State),
    (s.i.toNat + x.val ≤ 0xFFF → ∃ t, exec (.ldRegs x) s = .next t ∧
      (∀ k : RegIdx, k.val ≤ x.val → t.getV k = s.mem.read (s.i.toNat + k.val)) ∧ t.pc = s.pc + 2 ∧
      t.status = .running ∧
      OnlyChanges s t (fun p => p = .pc ∨ p = .status ∨ ∃ k : RegIdx, k.val ≤ x.val ∧ p = .reg k)) ∧
    (0xFFF < s.i.toNat + x.val → ∃ t, exec (.ldRegs x) s = .next t ∧ t.status = .halted ∧ t.faultCause = .memFault ∧
      OnlyChanges s t (fun p => p = .status ∨ p = .faultCause))

/-- 43_index_memory.md section 2 (FX55 and FX65): registers stored by FX55 are loaded back by FX65 through the same I,
whatever the registers held in between. -/
def Obligations.StoredRegistersAreLoadedBack : Prop :=
  ∀ (x : RegIdx) (s t : State) (v : Vector Byte 16), s.i.toNat + x.val ≤ 0xFFF → exec (.stRegs x) s = .next t →
    ∃ u, exec (.ldRegs x) { t with v := v } = .next u ∧ ∀ k : RegIdx, k.val ≤ x.val → u.getV k = s.getV k

/-! ## Display (44_display.md) -/

/-- R170: 00E0 clears every pixel and changes nothing else, VF included. -/
def Obligations.ScreenIsCleared : Prop :=
  DecodesZ 0x00E0 .cls ∧
  ∀ s : State, ∃ t, exec .cls s = .next t ∧ (∀ k : Fin 2048, t.fb.pixel k.val = false) ∧ t.pc = s.pc + 2 ∧
    t.status = .running ∧ OnlyChanges s t (fun p => p = .pc ∨ p = .status ∨ ∃ k, p = .pixel k)

/-- 44_display.md (DXYN; D13 and G2 for the geometry, log entry 10): when N is 0 or the sprite lies in memory, exactly the
pixels under a sprite bit equal to 1 are inverted, VF becomes 1 when one of them was 1 and 0 otherwise, and nothing else
changes. -/
def Obligations.SpriteInvertsThePixelsItCovers : Prop :=
  DecodesXYN 0xD000 .drw ∧
  ∀ (x y : RegIdx) (n : BitVec 4) (s : State), (n.toNat = 0 ∨ s.i.toNat + n.toNat - 1 ≤ 0xFFF) →
    ∃ t, exec (.drw x y n) s = .next t ∧
      (∀ k : Fin 2048, SpriteCovers s x y n k.val → t.fb.pixel k.val = !s.fb.pixel k.val) ∧
      (∀ k : Fin 2048, ¬ SpriteCovers s x y n k.val → t.fb.pixel k.val = s.fb.pixel k.val) ∧
      ((∃ k : Fin 2048, SpriteCovers s x y n k.val ∧ s.fb.pixel k.val = true) → t.getV regVF = 1) ∧
      ((¬ ∃ k : Fin 2048, SpriteCovers s x y n k.val ∧ s.fb.pixel k.val = true) → t.getV regVF = 0) ∧
      t.pc = s.pc + 2 ∧ t.status = .running ∧
      OnlyChanges s t (fun p => p = .pc ∨ p = .status ∨ p = .reg regVF ∨ ∃ k, p = .pixel k)

/-- 44_display.md (DXYN; D8, D9 for the fault): MemFault and nothing else when N is above 0 and I + N - 1 above 0xFFF. -/
def Obligations.SpriteOutsideMemoryFaults : Prop :=
  ∀ (x y : RegIdx) (n : BitVec 4) (s : State), 0 < n.toNat → 0xFFF < s.i.toNat + n.toNat - 1 →
    ∃ t, exec (.drw x y n) s = .next t ∧ t.status = .halted ∧ t.faultCause = .memFault ∧
      OnlyChanges s t (fun p => p = .status ∨ p = .faultCause)

/-- 95_test_vectors.md part 1 (S5), 44_display.md (DXYN): drawing a sprite twice at one place restores every pixel, and on a
cleared framebuffer reports VF = 0 first and VF = 1 second exactly when the sprite has a bit equal to 1 (D13). -/
def Obligations.SpriteDrawnTwiceRestores : Prop :=
  ∀ (x y : RegIdx) (n : BitVec 4) (s t u : State), x ≠ regVF → y ≠ regVF →
    exec (.drw x y n) s = .next t → t.status ≠ .halted → exec (.drw x y n) { t with pc := s.pc } = .next u →
      (∀ k : Fin 2048, u.fb.pixel k.val = s.fb.pixel k.val) ∧
      (s.fb = FrameBuffer.clear →
        t.getV regVF = 0 ∧ (u.getV regVF = 1 ↔ ∃ k : Fin 2048, SpriteCovers s x y n k.val))

/-! ## Keypad (45_keypad.md) -/

/-- 45_keypad.md (EX9E, EXA1; D10 for the index fault): with VX at most 15 EX9E skips when that key is pressed and EXA1 when
it is not; with VX above 15 KeyIndexFault and nothing else. -/
def Obligations.KeySkips : Prop :=
  DecodesXS 0xE09E .skp ∧ DecodesXS 0xE0A1 .sknp ∧
  ∀ (x : RegIdx) (s : State),
    (∀ h : (s.getV x).toNat < 16,
      (∃ t, exec (.skp x) s = .next t ∧ t.status = .running ∧ OnlyChanges s t (fun p => p = .pc ∨ p = .status) ∧
        (s.key[(s.getV x).toNat]'h = true → t.pc = s.pc + 4) ∧
        (s.key[(s.getV x).toNat]'h = false → t.pc = s.pc + 2)) ∧
      (∃ t, exec (.sknp x) s = .next t ∧ t.status = .running ∧ OnlyChanges s t (fun p => p = .pc ∨ p = .status) ∧
        (s.key[(s.getV x).toNat]'h = false → t.pc = s.pc + 4) ∧
        (s.key[(s.getV x).toNat]'h = true → t.pc = s.pc + 2))) ∧
    (15 < (s.getV x).toNat → ∀ i, (i = .skp x ∨ i = .sknp x) →
      ∃ t, exec i s = .next t ∧ t.status = .halted ∧ t.faultCause = .keyIndexFault ∧
        OnlyChanges s t (fun p => p = .status ∨ p = .faultCause))

/-- R182: FX0A puts the lowest pressed key's index in VX and goes on; with no key pressed nothing is written but status,
which becomes AwaitKey. -/
def Obligations.KeyWait : Prop :=
  DecodesXS 0xF00A .ldVxK ∧
  ∀ (x : RegIdx) (s : State),
    (∀ k : KeyIdx, s.key[k] = true → (∀ j : KeyIdx, j.val < k.val → s.key[j] = false) →
      ∃ t, exec (.ldVxK x) s = .next t ∧ (t.getV x).toNat = k.val ∧ t.pc = s.pc + 2 ∧ t.status = .running ∧
        OnlyChanges s t (fun p => p = .reg x ∨ p = .pc ∨ p = .status)) ∧
    ((∀ k : KeyIdx, s.key[k] = false) →
      ∃ t, exec (.ldVxK x) s = .next t ∧ t.status = .awaitKey ∧ OnlyChanges s t (fun p => p = .status))

/-! ## Timers (46_timers.md) and codes -/

/-- R190, R191, R192: FX07 sets VX to DT, FX15 sets DT to VX, FX18 sets ST to VX with no report; nothing else changes. -/
def Obligations.TimerInstructions : Prop :=
  DecodesXS 0xF007 .ldVxDt ∧ DecodesXS 0xF015 .ldDtVx ∧ DecodesXS 0xF018 .ldStVx ∧
  ∀ (x : RegIdx) (s : State),
    (∃ t, exec (.ldVxDt x) s = .next t ∧ t.getV x = s.dt ∧ t.pc = s.pc + 2 ∧ t.status = .running ∧
      OnlyChanges s t (fun p => p = .reg x ∨ p = .pc ∨ p = .status)) ∧
    (∃ t, exec (.ldDtVx x) s = .next t ∧ t.dt = s.getV x ∧ t.pc = s.pc + 2 ∧ t.status = .running ∧
      OnlyChanges s t (fun p => p = .dt ∨ p = .pc ∨ p = .status)) ∧
    (∃ t, exec (.ldStVx x) s = .next t ∧ t.st = s.getV x ∧ t.pc = s.pc + 2 ∧ t.status = .running ∧
      OnlyChanges s t (fun p => p = .st ∨ p = .pc ∨ p = .status))

/-- 10_state.md section 4 and 60_exceptions.md section 1 (D9, D16, D20): the host reads Running, AwaitKey, Halted as 0, 1, 2
and the causes as 0 to 5; status code 3 and cause codes 6 and 7 are never read. -/
def Obligations.PortCodes : Prop :=
  ∀ s : State,
    (portStatus s = 0 ↔ s.status = .running) ∧ (portStatus s = 1 ↔ s.status = .awaitKey) ∧
    (portStatus s = 2 ↔ s.status = .halted) ∧ portStatus s ≠ 3 ∧
    (portFaultCause s = 0 ↔ s.faultCause = .none) ∧ (portFaultCause s = 1 ↔ s.faultCause = .stackOverflow) ∧
    (portFaultCause s = 2 ↔ s.faultCause = .stackUnderflow) ∧ (portFaultCause s = 3 ↔ s.faultCause = .fetchFault) ∧
    (portFaultCause s = 4 ↔ s.faultCause = .memFault) ∧ (portFaultCause s = 5 ↔ s.faultCause = .keyIndexFault) ∧
    portFaultCause s ≠ 6 ∧ portFaultCause s ≠ 7
end

