-- ==== Sys2Proof/Laws/Display.lean ====
section
/-! SUPPORT. The laws of the framebuffer: what one inverted pixel, a cleared framebuffer and one plotted sprite bit read
as, and that every computed index is a pixel. -/

namespace Sys2Proof.Machine

/-- Every computed framebuffer index is a pixel (R173). -/
theorem pixelIndex_lt (column row : Nat) : pixelIndex column row < 2048 := by
  simp only [pixelIndex, Config.fbH, Config.fbW]
  omega

/-- Inverting pixel k changes pixel k and no other. -/
theorem FrameBuffer.pixel_invert (fb : FrameBuffer) {k : Nat} (hk : k < 2048) (j : Nat) :
    (fb.invert k).pixel j = (fb.pixel j ^^ decide (j = k)) := by
  have hrow : k / 64 < 32 := by omega
  have hmod : k % 64 < 64 := Nat.mod_lt _ (by decide)
  unfold FrameBuffer.pixel FrameBuffer.invert
  simp only [Config.fbW]
  rw [Vector.getElem?_setIfInBounds]
  by_cases hj : k / 64 = j / 64
  · rw [if_pos hj, if_pos hrow, Option.getD_some, BitVec.getLsbD_xor, BitVec.getLsbD_twoPow, hj]
    have : (decide (k % 64 < 64) && decide (k % 64 = j % 64)) = decide (j = k) := by
      simp only [hmod, decide_true, Bool.true_and, decide_eq_decide]
      omega
    rw [this]
  · have hjk : ¬ j = k := fun h => hj (h ▸ rfl)
    rw [if_neg hj]
    simp [hjk]

@[simp] theorem FrameBuffer.pixel_clear (k : Nat) : FrameBuffer.clear.pixel k = false := by
  unfold FrameBuffer.pixel FrameBuffer.clear
  rw [Vector.getElem?_replicate]
  split <;> simp

/-- Framebuffers whose 2048 pixels agree are equal. -/
theorem FrameBuffer.eq_of_pixel (fb fb' : FrameBuffer) (h : ∀ k, k < 2048 → fb.pixel k = fb'.pixel k) : fb = fb' := by
  refine Vector.ext fun r hr => BitVec.eq_of_getLsbD_eq fun c hc => ?_
  simp only [Config.fbH, Config.fbW] at hr hc
  have h1 := h (r * 64 + c) (by omega)
  have hd : (r * 64 + c) / 64 = r := by omega
  have hm : (r * 64 + c) % 64 = c := by omega
  simpa [FrameBuffer.pixel, hd, hm, Vector.getElem?_eq_getElem hr] using h1

/-- One sprite bit equal to 1 on pixel k: pixel k is inverted, and it is a collision when it was 1 (R171). -/
theorem Canvas.plot_spec (c : Canvas) {k : Nat} (hk : k < 2048) :
    (∀ j, (c.plot k).fb.pixel j = (c.fb.pixel j ^^ decide (j = k))) ∧ (c.plot k).hit = (c.hit || c.fb.pixel k) :=
  ⟨FrameBuffer.pixel_invert c.fb hk, rfl⟩

open Classical in
/-- One sprite row (R171): pixel j is inverted when a column of the row has its bit set on it, and there is a collision
when such a pixel was 1. -/
theorem Canvas.drawColumns_spec (b : Byte) (x0 row : Nat) : ∀ (n col : Nat) (c : Canvas), col + n ≤ 8 →
   (∀ j, (Canvas.drawColumns b x0 row col n c).fb.pixel j =
     (c.fb.pixel j ^^ decide (∃ q, col ≤ q ∧ q < col + n ∧ spriteBit b q = true ∧ pixelIndex (x0 + q) row = j))) ∧
   ((Canvas.drawColumns b x0 row col n c).hit = (c.hit || decide (∃ q, col ≤ q ∧ q < col + n ∧ spriteBit b q = true ∧ c.fb.pixel (pixelIndex (x0 + q) row) = true))) := by
  intro n
  induction n with
  | zero => 
    intro col c _
    simp only [Canvas.drawColumns]
    have h1 : ∀ (P : Nat → Prop), ¬ ∃ q, col ≤ q ∧ q < col + 0 ∧ P q := fun P ⟨q, a, b, _⟩ => by omega
    constructor
    · intro j; rw [decide_eq_false (h1 _)]; simp
    · rw [decide_eq_false (h1 _)]; simp
  | succ n ih =>
    intro col c hle
    simp only [Canvas.drawColumns]
    by_cases hb : spriteBit b col = true
    · simp only [hb, if_true]
      obtain ⟨i1, i2⟩ := ih (col+1) (c.plot (pixelIndex (x0 + col) row)) (by omega)
      obtain ⟨p1, p2⟩ := Canvas.plot_spec c (pixelIndex_lt (x0+col) row)
      constructor
      · intro j
        rw [i1, p1]
        by_cases hj : j = pixelIndex (x0+col) row
        · have : ¬ ∃ q, col+1 ≤ q ∧ q < col + 1 + n ∧ spriteBit b q = true ∧ pixelIndex (x0 + q) row = j := by
            rintro ⟨q, a, b', _, e⟩
            simp [pixelIndex] at hj e; omega
          have t : ∃ q, col ≤ q ∧ q < col + (n+1) ∧ spriteBit b q = true ∧ pixelIndex (x0 + q) row = j := ⟨col, by omega, by omega, hb, hj.symm⟩
          rw [decide_eq_false this, decide_eq_true t, decide_eq_true hj]; simp
        · have : (∃ q, col+1 ≤ q ∧ q < col + 1 + n ∧ spriteBit b q = true ∧ pixelIndex (x0 + q) row = j) ↔ (∃ q, col ≤ q ∧ q < col + (n+1) ∧ spriteBit b q = true ∧ pixelIndex (x0 + q) row = j) := by
            constructor
            · rintro ⟨q, a, b', c', d⟩; exact ⟨q, by omega, by omega, c', d⟩
            · rintro ⟨q, a, b', c', d⟩
              by_cases hq : q = col
              · subst hq; exact absurd d.symm hj
              · exact ⟨q, by omega, by omega, c', d⟩
          simp only [this, hj]; simp
      · rw [i2, p2]
        have : (∃ q, col+1 ≤ q ∧ q < col + 1 + n ∧ spriteBit b q = true ∧ (c.plot (pixelIndex (x0 + col) row)).fb.pixel (pixelIndex (x0 + q) row) = true) ↔ (∃ q, col+1 ≤ q ∧ q < col + 1 + n ∧ spriteBit b q = true ∧ c.fb.pixel (pixelIndex (x0 + q) row) = true) := by
          refine exists_congr fun q => and_congr_right fun a => and_congr_right fun b' => and_congr_right fun _ => ?_
          rw [p1]
          have : pixelIndex (x0 + q) row ≠ pixelIndex (x0+col) row := by simp [pixelIndex]; omega
          simp [this]
        simp only [this]
        by_cases hp : c.fb.pixel (pixelIndex (x0 + col) row) = true
        · have t : ∃ q, col ≤ q ∧ q < col + (n+1) ∧ spriteBit b q = true ∧ c.fb.pixel (pixelIndex (x0 + q) row) = true := ⟨col, by omega, by omega, hb, hp⟩
          simp [hp, t]
        · have e : (∃ q, col+1 ≤ q ∧ q < col + 1 + n ∧ spriteBit b q = true ∧ c.fb.pixel (pixelIndex (x0 + q) row) = true) ↔ ∃ q, col ≤ q ∧ q < col + (n+1) ∧ spriteBit b q = true ∧ c.fb.pixel (pixelIndex (x0 + q) row) = true := by
            constructor
            · rintro ⟨q, a, b', c', d⟩; exact ⟨q, by omega, by omega, c', d⟩
            · rintro ⟨q, a, b', c', d⟩
              by_cases hq : q = col
              · subst hq; exact absurd d hp
              · exact ⟨q, by omega, by omega, c', d⟩
          simp only [e, hp]; simp
    · simp only [hb]
      obtain ⟨i1, i2⟩ := ih (col+1) c (by omega)
      have g : ∀ P : Nat → Prop, (∃ q, col+1 ≤ q ∧ q < col + 1 + n ∧ spriteBit b q = true ∧ P q) ↔ (∃ q, col ≤ q ∧ q < col + (n+1) ∧ spriteBit b q = true ∧ P q) := by
        intro P
        constructor
        · rintro ⟨q, a, b', c', d⟩; exact ⟨q, by omega, by omega, c', d⟩
        · rintro ⟨q, a, b', c', d⟩
          by_cases hq : q = col
          · subst hq; exact absurd c' hb
          · exact ⟨q, by omega, by omega, c', d⟩
      simp only [← g]
      exact ⟨i1, i2⟩

open Classical in
/-- A whole sprite (R171): pixel j is inverted when a row and column of the sprite have their bit set on it, and there is
a collision when such a pixel was 1. -/
theorem Canvas.drawRows_spec (x0 : Nat) : ∀ (bs : List Byte) (row : Nat) (c : Canvas), bs.length ≤ 31 →
   (∀ j, (Canvas.drawRows x0 row bs c).fb.pixel j =
     (c.fb.pixel j ^^ decide (∃ r q, r < bs.length ∧ q < 8 ∧ spriteBit (bs.getD r 0) q = true ∧ pixelIndex (x0 + q) (row + r) = j))) ∧
   ((Canvas.drawRows x0 row bs c).hit = (c.hit || decide (∃ r q, r < bs.length ∧ q < 8 ∧ spriteBit (bs.getD r 0) q = true ∧ c.fb.pixel (pixelIndex (x0 + q) (row+r)) = true))) := by
  intro bs
  induction bs with
  | nil => intro row c _; simp [Canvas.drawRows]
  | cons b bs ih =>
    intro row c hl
    simp only [List.length_cons] at hl
    obtain ⟨i1, i2⟩ := ih (row+1) (Canvas.drawColumns b x0 row 0 8 c) (by omega)
    obtain ⟨p1, p2⟩ := Canvas.drawColumns_spec b x0 row 8 0 c (by omega)
    have g : ∀ P : Nat → Nat → Nat → Prop, (∃ r q, r < (b::bs).length ∧ q < 8 ∧ spriteBit ((b::bs).getD r 0) q = true ∧ P r q (row + r)) ↔
       ((∃ q, 0 ≤ q ∧ q < 0 + 8 ∧ spriteBit b q = true ∧ P 0 q row) ∨ (∃ r q, r < bs.length ∧ q < 8 ∧ spriteBit (bs.getD r 0) q = true ∧ P (r+1) q (row + 1 + r))) := by
      intro P
      constructor
      · rintro ⟨r, q, a, b', c', d⟩
        cases r with
        | zero => left; exact ⟨q, by omega, by omega, by simpa using c', d⟩
        | succ r => right; exact ⟨r, q, by simpa using a, b', by simpa using c', by rw [show row + 1 + r = row + (r+1) by omega]; exact d⟩
      · rintro (⟨q, a, b', c', d⟩ | ⟨r, q, a, b', c', d⟩)
        · exact ⟨0, q, by simp, by omega, by simpa using c', d⟩
        · exact ⟨r+1, q, by simpa using a, b', by simpa using c', by rw [show row + (r+1) = row + 1 + r by omega]; exact d⟩
    simp only [Canvas.drawRows]
    have g1 := fun j => g (fun r q R => pixelIndex (x0+q) R = j)
    have g2 := g (fun r q R => c.fb.pixel (pixelIndex (x0+q) R) = true)
    simp only [g1, g2]
    constructor
    · intro j
      rw [i1, p1]
      by_cases hA : (∃ q, 0 ≤ q ∧ q < 0 + 8 ∧ spriteBit b q = true ∧ pixelIndex (x0 + q) row = j)
      · have hB : ¬ (∃ r q, r < bs.length ∧ q < 8 ∧ spriteBit (bs.getD r 0) q = true ∧ pixelIndex (x0 + q) (row + 1 + r) = j) := by
          rintro ⟨r, q, a, b', c', d⟩
          obtain ⟨q', _, _, _, d'⟩ := hA
          simp [pixelIndex] at d d'; omega
        simp only [hA, hB]; simp
      · simp only [hA]; simp
    · rw [i2, p2]
      have : (∃ r q, r < bs.length ∧ q < 8 ∧ spriteBit (bs.getD r 0) q = true ∧ (Canvas.drawColumns b x0 row 0 8 c).fb.pixel (pixelIndex (x0 + q) (row + 1 + r)) = true) ↔ (∃ r q, r < bs.length ∧ q < 8 ∧ spriteBit (bs.getD r 0) q = true ∧ c.fb.pixel (pixelIndex (x0 + q) (row + 1 + r)) = true) := by
        refine exists_congr fun r => exists_congr fun q => and_congr_right fun a => and_congr_right fun b' => and_congr_right fun _ => ?_
        rw [p1]
        have : ¬ (∃ q', 0 ≤ q' ∧ q' < 0 + 8 ∧ spriteBit b q' = true ∧ pixelIndex (x0 + q') row = pixelIndex (x0 + q) (row + 1 + r)) := by
          rintro ⟨q', _, _, _, d⟩
          simp [pixelIndex] at d; omega
        simp only [this]; simp
      rw [decide_eq_decide.mpr this, Bool.or_assoc, ← Bool.decide_or]

end Sys2Proof.Machine
end

