-- ==== Sys2Proof/Laws/Encoding.lean ====
section
/-! SUPPORT. The fields of an opcode built by a format, an opcode as the concatenation of its fields, what the masks of
R72 keep of an opcode, and bytes to opcode and back. -/

namespace Sys2Proof

/-! ## Fields of a format (R71, R72) -/

@[simp] theorem fieldFamily_formatXY (f n : BitVec 4) (x y : RegIdx) : fieldFamily (formatXY f x y n) = f :=
  (BitVec.extractLsb'_append_eq_of_le (by decide)).trans
    ((BitVec.extractLsb'_append_eq_of_le (by decide)).trans BitVec.extractLsb'_append_eq_left)

@[simp] theorem fieldX_formatXY (f n : BitVec 4) (x y : RegIdx) : fieldX (formatXY f x y n) = x := by
  have h : (formatXY f x y n).extractLsb' 8 4 = BitVec.ofFin x :=
    (BitVec.extractLsb'_append_eq_of_le (by decide)).trans
      ((BitVec.extractLsb'_append_eq_of_le (by decide)).trans BitVec.extractLsb'_append_eq_right)
  rw [fieldX, h]

@[simp] theorem fieldY_formatXY (f n : BitVec 4) (x y : RegIdx) : fieldY (formatXY f x y n) = y := by
  have h : (formatXY f x y n).extractLsb' 4 4 = BitVec.ofFin y :=
    (BitVec.extractLsb'_append_eq_of_le (by decide)).trans BitVec.extractLsb'_append_eq_right
  rw [fieldY, h]

@[simp] theorem fieldN_formatXY (f n : BitVec 4) (x y : RegIdx) : fieldN (formatXY f x y n) = n :=
  BitVec.extractLsb'_append_eq_right

@[simp] theorem fieldFamily_formatXI (f : BitVec 4) (x : RegIdx) (nn : Byte) : fieldFamily (formatXI f x nn) = f :=
  (BitVec.extractLsb'_append_eq_of_le (by decide)).trans BitVec.extractLsb'_append_eq_left

@[simp] theorem fieldX_formatXI (f : BitVec 4) (x : RegIdx) (nn : Byte) : fieldX (formatXI f x nn) = x := by
  have h : (formatXI f x nn).extractLsb' 8 4 = BitVec.ofFin x :=
    (BitVec.extractLsb'_append_eq_of_le (by decide)).trans BitVec.extractLsb'_append_eq_right
  rw [fieldX, h]

@[simp] theorem fieldNN_formatXI (f : BitVec 4) (x : RegIdx) (nn : Byte) : fieldNN (formatXI f x nn) = nn :=
  BitVec.extractLsb'_append_eq_right

@[simp] theorem fieldFamily_formatA (f : BitVec 4) (nnn : Addr12) : fieldFamily (formatA f nnn) = f :=
  BitVec.extractLsb'_append_eq_left

@[simp] theorem fieldNNN_formatA (f : BitVec 4) (nnn : Addr12) : fieldNNN (formatA f nnn) = nnn :=
  BitVec.extractLsb'_append_eq_right

/-! ## An opcode is its fields -/

theorem formatA_fields (op : Word) : formatA (fieldFamily op) (fieldNNN op) = op :=
  (BitVec.extractLsb'_append_extractLsb'_eq_extractLsb' (by decide)).trans BitVec.extractLsb'_eq_self

theorem formatXI_fields (op : Word) : formatXI (fieldFamily op) (fieldX op) (fieldNN op) = op := by
  have h : (fieldFamily op ++ (BitVec.ofFin (fieldX op) : BitVec 4) : BitVec 8) = op.extractLsb' 8 8 :=
    BitVec.extractLsb'_append_extractLsb'_eq_extractLsb' (by decide)
  show (fieldFamily op ++ (BitVec.ofFin (fieldX op) : BitVec 4) : BitVec 8) ++ fieldNN op = op
  rw [h]
  exact (BitVec.extractLsb'_append_extractLsb'_eq_extractLsb' (by decide)).trans BitVec.extractLsb'_eq_self

theorem formatXY_fields (op : Word) : formatXY (fieldFamily op) (fieldX op) (fieldY op) (fieldN op) = op := by
  have h : (fieldFamily op ++ (BitVec.ofFin (fieldX op) : BitVec 4) : BitVec 8) = op.extractLsb' 8 8 :=
    BitVec.extractLsb'_append_extractLsb'_eq_extractLsb' (by decide)
  have h2 : (op.extractLsb' 8 8 ++ (BitVec.ofFin (fieldY op) : BitVec 4) : BitVec 12) = op.extractLsb' 4 12 :=
    BitVec.extractLsb'_append_extractLsb'_eq_extractLsb' (by decide)
  show ((fieldFamily op ++ (BitVec.ofFin (fieldX op) : BitVec 4) : BitVec 8) ++
    (BitVec.ofFin (fieldY op) : BitVec 4) : BitVec 12) ++ fieldN op = op
  rw [h, h2]
  exact (BitVec.extractLsb'_append_extractLsb'_eq_extractLsb' (by decide)).trans BitVec.extractLsb'_eq_self

/-! ## What a mask keeps (R72, R74) -/

theorem family_of_mask {op fixed : Word} (h : op &&& 0xF000#16 = fixed) : fieldFamily op = fieldFamily fixed := by
  have h1 := congrArg (BitVec.extractLsb' 12 4) h
  rwa [BitVec.extractLsb'_and, show BitVec.extractLsb' 12 4 0xF000#16 = BitVec.allOnes 4 by decide,
    BitVec.and_allOnes] at h1

theorem family_sub_of_maskXY {op fixed : Word} (h : op &&& 0xF00F#16 = fixed) :
    fieldFamily op = fieldFamily fixed ∧ fieldN op = fieldN fixed := by
  have h1 := congrArg (BitVec.extractLsb' 12 4) h
  have h2 := congrArg (BitVec.extractLsb' 0 4) h
  rw [BitVec.extractLsb'_and, show BitVec.extractLsb' 12 4 0xF00F#16 = BitVec.allOnes 4 by decide,
    BitVec.and_allOnes] at h1
  rw [BitVec.extractLsb'_and, show BitVec.extractLsb' 0 4 0xF00F#16 = BitVec.allOnes 4 by decide,
    BitVec.and_allOnes] at h2
  exact ⟨h1, h2⟩

theorem family_sub_of_maskXS {op fixed : Word} (h : op &&& 0xF0FF#16 = fixed) :
    fieldFamily op = fieldFamily fixed ∧ fieldNN op = fieldNN fixed := by
  have h1 := congrArg (BitVec.extractLsb' 12 4) h
  have h2 := congrArg (BitVec.extractLsb' 0 8) h
  rw [BitVec.extractLsb'_and, show BitVec.extractLsb' 12 4 0xF0FF#16 = BitVec.allOnes 4 by decide,
    BitVec.and_allOnes] at h1
  rw [BitVec.extractLsb'_and, show BitVec.extractLsb' 0 8 0xF0FF#16 = BitVec.allOnes 8 by decide,
    BitVec.and_allOnes] at h2
  exact ⟨h1, h2⟩

theorem formatA_mask (f : BitVec 4) (nnn : Addr12) : formatA f nnn &&& 0xF000#16 = formatA f 0 := by
  show (f ++ nnn) &&& (0xF#4 ++ 0#12) = f ++ 0#12
  rw [BitVec.and_append, show (0xF#4) = BitVec.allOnes 4 from rfl, BitVec.and_allOnes, BitVec.and_zero]

theorem formatXI_mask (f : BitVec 4) (x : RegIdx) (nn : Byte) : formatXI f x nn &&& 0xF000#16 = formatXI f 0 0 := by
  show ((f ++ (BitVec.ofFin x : BitVec 4)) ++ nn) &&& ((0xF#4 ++ 0#4) ++ 0#8) = (f ++ 0#4) ++ 0#8
  rw [BitVec.and_append, BitVec.and_append, show (0xF#4) = BitVec.allOnes 4 from rfl, BitVec.and_allOnes,
    BitVec.and_zero, BitVec.and_zero]

theorem formatXS_mask (f : BitVec 4) (x : RegIdx) (nn : Byte) : formatXI f x nn &&& 0xF0FF#16 = formatXI f 0 nn := by
  show ((f ++ (BitVec.ofFin x : BitVec 4)) ++ nn) &&& ((0xF#4 ++ 0#4) ++ 0xFF#8) = (f ++ 0#4) ++ nn
  rw [BitVec.and_append, BitVec.and_append, show (0xF#4) = BitVec.allOnes 4 from rfl,
    show (0xFF#8) = BitVec.allOnes 8 from rfl, BitVec.and_allOnes, BitVec.and_allOnes, BitVec.and_zero]

theorem formatXYN_mask (f n : BitVec 4) (x y : RegIdx) : formatXY f x y n &&& 0xF000#16 = formatXY f 0 0 0 := by
  show (((f ++ (BitVec.ofFin x : BitVec 4)) ++ (BitVec.ofFin y : BitVec 4)) ++ n) &&& (((0xF#4 ++ 0#4) ++ 0#4) ++ 0#4)
    = ((f ++ 0#4) ++ 0#4) ++ 0#4
  rw [BitVec.and_append, BitVec.and_append, BitVec.and_append, show (0xF#4) = BitVec.allOnes 4 from rfl,
    BitVec.and_allOnes, BitVec.and_zero, BitVec.and_zero, BitVec.and_zero]

theorem formatXY_mask (f n : BitVec 4) (x y : RegIdx) : formatXY f x y n &&& 0xF00F#16 = formatXY f 0 0 n := by
  show (((f ++ (BitVec.ofFin x : BitVec 4)) ++ (BitVec.ofFin y : BitVec 4)) ++ n) &&&
    (((0xF#4 ++ 0#4) ++ 0#4) ++ 0xF#4) = ((f ++ 0#4) ++ 0#4) ++ n
  rw [BitVec.and_append, BitVec.and_append, BitVec.and_append, show (0xF#4) = BitVec.allOnes 4 from rfl,
    BitVec.and_allOnes, BitVec.and_allOnes, BitVec.and_zero, BitVec.and_zero]

/-! ## Bytes (R52, R70) -/

/-- The two bytes of an opcode, put together again, are the opcode. -/
@[simp] theorem opcodeOfBytes_halves (op : Word) : opcodeOfBytes (op.extractLsb' 8 8) (op.extractLsb' 0 8) = op :=
  (BitVec.extractLsb'_append_extractLsb'_eq_extractLsb' (by decide)).trans BitVec.extractLsb'_eq_self

end Sys2Proof
end

