-- ==== Sys2Proof/Laws/Memory.lean ====
section
/-! SUPPORT. The laws of memory: a read after a write, and the canonical form that every operation keeps. -/

namespace Sys2Proof.Machine

/-! ## Reads after writes -/

theorem Memory.read_insert (m : Memory) (a b : Nat) (w : Byte) :
    (m.insert a w).read b = if b = a then w else m.read b := by
  induction m with
  | nil => simp [Memory.insert, Memory.read]
  | cons c rest ih =>
    obtain ⟨d, u⟩ := c
    simp only [Memory.insert]
    split
    · simp [Memory.read]
    · split
      · rename_i h1 h2
        subst h2
        simp only [Memory.read]
        split <;> rfl
      · rename_i h1 h2
        simp only [Memory.read, ih]
        split
        · rename_i h3
          subst h3
          have : b ≠ a := fun h => h2 h.symm
          simp [this]
        · rfl

theorem Memory.read_filter_ne (m : Memory) (a b : Nat) :
    Memory.read (m.filter (fun c => c.1 != a)) b = if b = a then Config.resetByte a else m.read b := by
  induction m with
  | nil => simp only [List.filter_nil, Memory.read]; split <;> simp_all
  | cons c rest ih =>
    obtain ⟨d, u⟩ := c
    by_cases hda : d = a
    · subst hda
      simp only [List.filter_cons, bne_self_eq_false, Bool.false_eq_true, if_false, ih, Memory.read]
      split <;> rfl
    · simp only [List.filter_cons, bne_iff_ne, ne_eq, hda, not_false_eq_true, if_true, Memory.read, ih]
      by_cases hbd : b = d
      · have hba : ¬ b = a := fun h => hda (hbd ▸ h)
        rw [if_pos hbd, if_pos hbd, if_neg hba]
      · rw [if_neg hbd, if_neg hbd]

/-- A read after a write gives the byte written at its address and the old byte everywhere else (R58). -/
theorem Memory.read_write (m : Memory) (a b : Nat) (w : Byte) :
    (m.write a w).read b = if b = a then w else m.read b := by
  unfold Memory.write
  split
  · rename_i h
    rw [Memory.read_filter_ne, h]
  · exact Memory.read_insert m a b w

/-- A read after a write of consecutive bytes. -/
theorem Memory.read_writeBytes (ws : List Byte) :
    ∀ (m : Memory) (a b : Nat),
      (m.writeBytes a ws).read b = if a ≤ b then ws.getD (b - a) (m.read b) else m.read b := by
  induction ws with
  | nil => intro m a b; simp [Memory.writeBytes]
  | cons w ws ih =>
    intro m a b
    rw [Memory.writeBytes, ih, Memory.read_write]
    by_cases h1 : a + 1 ≤ b
    · have h2 : b - a = (b - (a + 1)) + 1 := by omega
      have h3 : b ≠ a := by omega
      have h4 : a ≤ b := by omega
      simp [h1, h4, h3, h2]
    · by_cases h2 : b = a
      · subst h2; simp
      · have h4 : ¬ a ≤ b := by omega
        simp [h1, h4, h2]

/-- Outside the bytes written, a read is unchanged. -/
theorem Memory.read_writeBytes_outside (m : Memory) (a b : Nat) (ws : List Byte) (h : b < a ∨ a + ws.length ≤ b) :
    (m.writeBytes a ws).read b = m.read b := by
  rw [Memory.read_writeBytes]
  split
  · rw [List.getD_eq_getElem?_getD, List.getElem?_eq_none (by omega), Option.getD_none]
  · rfl

@[simp] theorem Memory.readBytes_length (m : Memory) (n : Nat) : ∀ a, (m.readBytes a n).length = n := by
  induction n with
  | zero => intro a; rfl
  | succ n ih => intro a; simp [Memory.readBytes, ih]

/-- The k-th of n bytes read is the byte at the k-th address. -/
theorem Memory.readBytes_getD (m : Memory) (d : Byte) (n : Nat) :
    ∀ a k, k < n → (m.readBytes a n).getD k d = m.read (a + k) := by
  induction n with
  | zero => intro a k h; omega
  | succ n ih =>
    intro a k h
    cases k with
    | zero => simp [Memory.readBytes]
    | succ k =>
      have := ih (a + 1) k (by omega)
      simp only [Memory.readBytes, List.getD_cons_succ, this]
      congr 1
      omega

/-! ## The canonical form -/

/-- A canonical rest read below its first address gives the reset contents. -/
theorem Memory.read_of_wfFrom_lt (m : Memory) :
    ∀ (lo a : Nat), Memory.wfFrom lo m = true → a < lo → m.read a = Config.resetByte a := by
  induction m with
  | nil => intro lo a _ _; rfl
  | cons c rest ih =>
    intro lo a h hlt
    obtain ⟨d, u⟩ := c
    simp only [Memory.wfFrom, Bool.and_eq_true, decide_eq_true_eq] at h
    have hne : a ≠ d := by omega
    simp only [Memory.read, hne, if_false]
    exact ih (d + 1) a h.2 (by omega)

theorem Memory.wfFrom_weaken (m : Memory) {lo lo' : Nat} (h : Memory.wfFrom lo m = true) (hle : lo' ≤ lo) :
    Memory.wfFrom lo' m = true := by
  cases m with
  | nil => rfl
  | cons c rest =>
    obtain ⟨d, u⟩ := c
    simp only [Memory.wfFrom, Bool.and_eq_true, decide_eq_true_eq] at h ⊢
    exact ⟨⟨⟨by omega, h.1.1.2⟩, h.1.2⟩, h.2⟩

theorem Memory.wfFrom_insert (m : Memory) (a : Nat) (w : Byte) (ha : a < Config.memSize)
    (hw : w ≠ Config.resetByte a) :
    ∀ lo, Memory.wfFrom lo m = true → lo ≤ a → Memory.wfFrom lo (m.insert a w) = true := by
  induction m with
  | nil => intro lo _ hle; simp_all [Memory.insert, Memory.wfFrom]
  | cons c rest ih =>
    intro lo h hle
    obtain ⟨d, u⟩ := c
    have h0 := h
    simp only [Memory.wfFrom, Bool.and_eq_true, decide_eq_true_eq] at h
    simp only [Memory.insert]
    split
    · rename_i hlt
      simp only [Memory.wfFrom, Bool.and_eq_true, decide_eq_true_eq]
      exact ⟨⟨⟨hle, ha⟩, hw⟩, ⟨⟨by omega, h.1.1.2⟩, h.1.2⟩, h.2⟩
    · split
      · rename_i hlt heq
        subst heq
        simp only [Memory.wfFrom, Bool.and_eq_true, decide_eq_true_eq]
        exact ⟨⟨⟨hle, ha⟩, hw⟩, h.2⟩
      · rename_i hlt hne
        simp only [Memory.wfFrom, Bool.and_eq_true, decide_eq_true_eq]
        exact ⟨h.1, ih (d + 1) h.2 (by omega)⟩

theorem Memory.wfFrom_filter (m : Memory) (p : Host.Cell → Bool) :
    ∀ lo, Memory.wfFrom lo m = true → Memory.wfFrom lo (m.filter p) = true := by
  induction m with
  | nil => intro lo _; rfl
  | cons c rest ih =>
    intro lo h
    obtain ⟨d, u⟩ := c
    simp only [Memory.wfFrom, Bool.and_eq_true, decide_eq_true_eq] at h
    rw [List.filter_cons]
    split
    · simp only [Memory.wfFrom, Bool.and_eq_true, decide_eq_true_eq]
      exact ⟨h.1, ih (d + 1) h.2⟩
    · exact ih lo (Memory.wfFrom_weaken rest h.2 (by omega))

/-- A write inside the address space keeps the canonical form. -/
theorem Memory.wf_write (m : Memory) (a : Nat) (w : Byte) (h : m.wf = true) (ha : a < Config.memSize) :
    (m.write a w).wf = true := by
  unfold Memory.write Memory.wf
  split
  · exact Memory.wfFrom_filter m _ 0 h
  · rename_i hw
    exact Memory.wfFrom_insert m a w ha hw 0 h (Nat.zero_le a)

/-- A write of consecutive bytes inside the address space keeps the canonical form. -/
theorem Memory.wf_writeBytes (ws : List Byte) :
    ∀ (m : Memory) (a : Nat), m.wf = true → a + ws.length ≤ Config.memSize → (m.writeBytes a ws).wf = true := by
  induction ws with
  | nil => intro m a h _; exact h
  | cons w ws ih =>
    intro m a h hle
    simp only [List.length_cons] at hle
    exact ih (m.write a w) (a + 1) (Memory.wf_write m a w h (by omega)) (by omega)

/-- The memory of reset is canonical. -/
theorem Memory.wf_reset : State.reset.mem.wf = true := rfl

/-- Canonical memories that read alike are equal. -/
theorem Memory.eq_of_read (m : Memory) :
    ∀ (m' : Memory) (lo : Nat), Memory.wfFrom lo m = true → Memory.wfFrom lo m' = true →
      (∀ a, m.read a = m'.read a) → m = m' := by
  induction m with
  | nil =>
    intro m' lo _ h' heq
    cases m' with
    | nil => rfl
    | cons c rest =>
      obtain ⟨d, u⟩ := c
      simp only [Memory.wfFrom, Bool.and_eq_true, decide_eq_true_eq] at h'
      have := heq d
      simp only [Memory.read, if_true] at this
      exact absurd this.symm h'.1.2
  | cons c rest ih =>
    intro m' lo h h' heq
    obtain ⟨d, u⟩ := c
    have h0 := h
    simp only [Memory.wfFrom, Bool.and_eq_true, decide_eq_true_eq] at h
    cases m' with
    | nil =>
      have := heq d
      simp only [Memory.read, if_true] at this
      exact absurd this h.1.2
    | cons c' rest' =>
      obtain ⟨d', u'⟩ := c'
      have h0' := h'
      simp only [Memory.wfFrom, Bool.and_eq_true, decide_eq_true_eq] at h'
      have hdd : d = d' := by
        rcases Nat.lt_trichotomy d d' with hlt | heq' | hgt
        · have h1 := heq d
          have hne : d ≠ d' := by omega
          simp only [Memory.read, if_true, hne, if_false] at h1
          rw [Memory.read_of_wfFrom_lt rest' (d' + 1) d h'.2 (by omega)] at h1
          exact absurd h1 h.1.2
        · exact heq'
        · have h1 := heq d'
          have hne : d' ≠ d := by omega
          simp only [Memory.read, if_true, hne, if_false] at h1
          rw [Memory.read_of_wfFrom_lt rest (d + 1) d' h.2 (by omega)] at h1
          exact absurd h1.symm h'.1.2
      subst hdd
      have huu : u = u' := by
        have := heq d
        simpa only [Memory.read, if_true] using this
      subst huu
      have : rest = rest' := by
        refine ih rest' (d + 1) h.2 h'.2 fun a => ?_
        by_cases had : a = d
        · subst had
          rw [Memory.read_of_wfFrom_lt rest (a + 1) a h.2 (by omega),
            Memory.read_of_wfFrom_lt rest' (a + 1) a h'.2 (by omega)]
        · have := heq a
          simpa only [Memory.read, had, if_false] using this
      rw [this]

end Sys2Proof.Machine
end

