-- ==== Sys2Proof/Laws/State.lean ====
section
/-! SUPPORT. One lemma per field per named update of State, true by rfl, so that no later proof unfolds a record update;
the parameters of Config as numerals; and the laws of the register file, the stack and the operands. -/

namespace Sys2Proof.Machine

/-! ## Register write -/

@[simp] theorem State.setV_v (s : State) (r : RegIdx) (b : Byte) : (s.setV r b).v = s.v.set r.val b r.isLt := rfl
@[simp] theorem State.setV_i (s : State) (r : RegIdx) (b : Byte) : (s.setV r b).i = s.i := rfl
@[simp] theorem State.setV_pc (s : State) (r : RegIdx) (b : Byte) : (s.setV r b).pc = s.pc := rfl
@[simp] theorem State.setV_sp (s : State) (r : RegIdx) (b : Byte) : (s.setV r b).sp = s.sp := rfl
@[simp] theorem State.setV_stack (s : State) (r : RegIdx) (b : Byte) : (s.setV r b).stack = s.stack := rfl
@[simp] theorem State.setV_mem (s : State) (r : RegIdx) (b : Byte) : (s.setV r b).mem = s.mem := rfl
@[simp] theorem State.setV_fb (s : State) (r : RegIdx) (b : Byte) : (s.setV r b).fb = s.fb := rfl
@[simp] theorem State.setV_key (s : State) (r : RegIdx) (b : Byte) : (s.setV r b).key = s.key := rfl
@[simp] theorem State.setV_dt (s : State) (r : RegIdx) (b : Byte) : (s.setV r b).dt = s.dt := rfl
@[simp] theorem State.setV_st (s : State) (r : RegIdx) (b : Byte) : (s.setV r b).st = s.st := rfl
@[simp] theorem State.setV_opcode (s : State) (r : RegIdx) (b : Byte) : (s.setV r b).opcode = s.opcode := rfl
@[simp] theorem State.setV_status (s : State) (r : RegIdx) (b : Byte) : (s.setV r b).status = s.status := rfl
@[simp] theorem State.setV_faultCause (s : State) (r : RegIdx) (b : Byte) : (s.setV r b).faultCause = s.faultCause := rfl
@[simp] theorem State.setV_report (s : State) (r : RegIdx) (b : Byte) : (s.setV r b).report = s.report := rfl
@[simp] theorem State.setV_rand (s : State) (r : RegIdx) (b : Byte) : (s.setV r b).rand = s.rand := rfl
@[simp] theorem State.setV_draws (s : State) (r : RegIdx) (b : Byte) : (s.setV r b).draws = s.draws := rfl
@[simp] theorem State.setV_launch (s : State) (r : RegIdx) (b : Byte) : (s.setV r b).launch = s.launch := rfl
@[simp] theorem State.setV_pending (s : State) (r : RegIdx) (b : Byte) : (s.setV r b).pending = s.pending := rfl

/-! ## Completion (R97, R100) -/

@[simp] theorem State.retire_v (s : State) (w : Word) : (s.retire w).v = s.v := rfl
@[simp] theorem State.retire_i (s : State) (w : Word) : (s.retire w).i = s.i := rfl
@[simp] theorem State.retire_pc (s : State) (w : Word) : (s.retire w).pc = w := rfl
@[simp] theorem State.retire_sp (s : State) (w : Word) : (s.retire w).sp = s.sp := rfl
@[simp] theorem State.retire_stack (s : State) (w : Word) : (s.retire w).stack = s.stack := rfl
@[simp] theorem State.retire_mem (s : State) (w : Word) : (s.retire w).mem = s.mem := rfl
@[simp] theorem State.retire_fb (s : State) (w : Word) : (s.retire w).fb = s.fb := rfl
@[simp] theorem State.retire_key (s : State) (w : Word) : (s.retire w).key = s.key := rfl
@[simp] theorem State.retire_dt (s : State) (w : Word) : (s.retire w).dt = s.dt := rfl
@[simp] theorem State.retire_st (s : State) (w : Word) : (s.retire w).st = s.st := rfl
@[simp] theorem State.retire_opcode (s : State) (w : Word) : (s.retire w).opcode = s.opcode := rfl
@[simp] theorem State.retire_status (s : State) (w : Word) : (s.retire w).status = .running := rfl
@[simp] theorem State.retire_faultCause (s : State) (w : Word) : (s.retire w).faultCause = s.faultCause := rfl
@[simp] theorem State.retire_report (s : State) (w : Word) : (s.retire w).report = s.report := rfl
@[simp] theorem State.retire_rand (s : State) (w : Word) : (s.retire w).rand = s.rand := rfl
@[simp] theorem State.retire_draws (s : State) (w : Word) : (s.retire w).draws = s.draws := rfl
@[simp] theorem State.retire_launch (s : State) (w : Word) : (s.retire w).launch = s.launch := rfl
@[simp] theorem State.retire_pending (s : State) (w : Word) : (s.retire w).pending = s.pending := rfl
@[simp] theorem State.retire_getV (s : State) (w : Word) (q : RegIdx) : (s.retire w).getV q = s.getV q := rfl

/-! ## pc + 2 -/

@[simp] theorem State.advance_v (s : State) : (s.advance).v = s.v := rfl
@[simp] theorem State.advance_i (s : State) : (s.advance).i = s.i := rfl
@[simp] theorem State.advance_pc (s : State) : (s.advance).pc = s.pc + 2 := rfl
@[simp] theorem State.advance_sp (s : State) : (s.advance).sp = s.sp := rfl
@[simp] theorem State.advance_stack (s : State) : (s.advance).stack = s.stack := rfl
@[simp] theorem State.advance_mem (s : State) : (s.advance).mem = s.mem := rfl
@[simp] theorem State.advance_fb (s : State) : (s.advance).fb = s.fb := rfl
@[simp] theorem State.advance_key (s : State) : (s.advance).key = s.key := rfl
@[simp] theorem State.advance_dt (s : State) : (s.advance).dt = s.dt := rfl
@[simp] theorem State.advance_st (s : State) : (s.advance).st = s.st := rfl
@[simp] theorem State.advance_opcode (s : State) : (s.advance).opcode = s.opcode := rfl
@[simp] theorem State.advance_status (s : State) : (s.advance).status = .running := rfl
@[simp] theorem State.advance_faultCause (s : State) : (s.advance).faultCause = s.faultCause := rfl
@[simp] theorem State.advance_report (s : State) : (s.advance).report = s.report := rfl
@[simp] theorem State.advance_rand (s : State) : (s.advance).rand = s.rand := rfl
@[simp] theorem State.advance_draws (s : State) : (s.advance).draws = s.draws := rfl
@[simp] theorem State.advance_launch (s : State) : (s.advance).launch = s.launch := rfl
@[simp] theorem State.advance_pending (s : State) : (s.advance).pending = s.pending := rfl
@[simp] theorem State.advance_getV (s : State) (q : RegIdx) : (s.advance).getV q = s.getV q := rfl

/-! ## Skip -/

@[simp] theorem State.skipIf_v (s : State) (c : Bool) : (s.skipIf c).v = s.v := rfl
@[simp] theorem State.skipIf_i (s : State) (c : Bool) : (s.skipIf c).i = s.i := rfl
@[simp] theorem State.skipIf_pc (s : State) (c : Bool) : (s.skipIf c).pc = if c then s.pc + 4 else s.pc + 2 := rfl
@[simp] theorem State.skipIf_sp (s : State) (c : Bool) : (s.skipIf c).sp = s.sp := rfl
@[simp] theorem State.skipIf_stack (s : State) (c : Bool) : (s.skipIf c).stack = s.stack := rfl
@[simp] theorem State.skipIf_mem (s : State) (c : Bool) : (s.skipIf c).mem = s.mem := rfl
@[simp] theorem State.skipIf_fb (s : State) (c : Bool) : (s.skipIf c).fb = s.fb := rfl
@[simp] theorem State.skipIf_key (s : State) (c : Bool) : (s.skipIf c).key = s.key := rfl
@[simp] theorem State.skipIf_dt (s : State) (c : Bool) : (s.skipIf c).dt = s.dt := rfl
@[simp] theorem State.skipIf_st (s : State) (c : Bool) : (s.skipIf c).st = s.st := rfl
@[simp] theorem State.skipIf_opcode (s : State) (c : Bool) : (s.skipIf c).opcode = s.opcode := rfl
@[simp] theorem State.skipIf_status (s : State) (c : Bool) : (s.skipIf c).status = .running := rfl
@[simp] theorem State.skipIf_faultCause (s : State) (c : Bool) : (s.skipIf c).faultCause = s.faultCause := rfl
@[simp] theorem State.skipIf_report (s : State) (c : Bool) : (s.skipIf c).report = s.report := rfl
@[simp] theorem State.skipIf_rand (s : State) (c : Bool) : (s.skipIf c).rand = s.rand := rfl
@[simp] theorem State.skipIf_draws (s : State) (c : Bool) : (s.skipIf c).draws = s.draws := rfl
@[simp] theorem State.skipIf_launch (s : State) (c : Bool) : (s.skipIf c).launch = s.launch := rfl
@[simp] theorem State.skipIf_pending (s : State) (c : Bool) : (s.skipIf c).pending = s.pending := rfl
@[simp] theorem State.skipIf_getV (s : State) (c : Bool) (q : RegIdx) : (s.skipIf c).getV q = s.getV q := rfl

/-! ## Key wait -/

@[simp] theorem State.await_v (s : State) : (s.await).v = s.v := rfl
@[simp] theorem State.await_i (s : State) : (s.await).i = s.i := rfl
@[simp] theorem State.await_pc (s : State) : (s.await).pc = s.pc := rfl
@[simp] theorem State.await_sp (s : State) : (s.await).sp = s.sp := rfl
@[simp] theorem State.await_stack (s : State) : (s.await).stack = s.stack := rfl
@[simp] theorem State.await_mem (s : State) : (s.await).mem = s.mem := rfl
@[simp] theorem State.await_fb (s : State) : (s.await).fb = s.fb := rfl
@[simp] theorem State.await_key (s : State) : (s.await).key = s.key := rfl
@[simp] theorem State.await_dt (s : State) : (s.await).dt = s.dt := rfl
@[simp] theorem State.await_st (s : State) : (s.await).st = s.st := rfl
@[simp] theorem State.await_opcode (s : State) : (s.await).opcode = s.opcode := rfl
@[simp] theorem State.await_status (s : State) : (s.await).status = .awaitKey := rfl
@[simp] theorem State.await_faultCause (s : State) : (s.await).faultCause = s.faultCause := rfl
@[simp] theorem State.await_report (s : State) : (s.await).report = s.report := rfl
@[simp] theorem State.await_rand (s : State) : (s.await).rand = s.rand := rfl
@[simp] theorem State.await_draws (s : State) : (s.await).draws = s.draws := rfl
@[simp] theorem State.await_launch (s : State) : (s.await).launch = s.launch := rfl
@[simp] theorem State.await_pending (s : State) : (s.await).pending = s.pending := rfl
@[simp] theorem State.await_getV (s : State) (q : RegIdx) : (s.await).getV q = s.getV q := rfl

/-! ## Fault entry (R205) -/

@[simp] theorem State.raise_v (s : State) (c : FaultCause) : (s.raise c).v = s.v := rfl
@[simp] theorem State.raise_i (s : State) (c : FaultCause) : (s.raise c).i = s.i := rfl
@[simp] theorem State.raise_pc (s : State) (c : FaultCause) : (s.raise c).pc = s.pc := rfl
@[simp] theorem State.raise_sp (s : State) (c : FaultCause) : (s.raise c).sp = s.sp := rfl
@[simp] theorem State.raise_stack (s : State) (c : FaultCause) : (s.raise c).stack = s.stack := rfl
@[simp] theorem State.raise_mem (s : State) (c : FaultCause) : (s.raise c).mem = s.mem := rfl
@[simp] theorem State.raise_fb (s : State) (c : FaultCause) : (s.raise c).fb = s.fb := rfl
@[simp] theorem State.raise_key (s : State) (c : FaultCause) : (s.raise c).key = s.key := rfl
@[simp] theorem State.raise_dt (s : State) (c : FaultCause) : (s.raise c).dt = s.dt := rfl
@[simp] theorem State.raise_st (s : State) (c : FaultCause) : (s.raise c).st = s.st := rfl
@[simp] theorem State.raise_opcode (s : State) (c : FaultCause) : (s.raise c).opcode = s.opcode := rfl
@[simp] theorem State.raise_status (s : State) (c : FaultCause) : (s.raise c).status = .halted := rfl
@[simp] theorem State.raise_faultCause (s : State) (c : FaultCause) : (s.raise c).faultCause = c := rfl
@[simp] theorem State.raise_report (s : State) (c : FaultCause) : (s.raise c).report = s.report := rfl
@[simp] theorem State.raise_rand (s : State) (c : FaultCause) : (s.raise c).rand = s.rand := rfl
@[simp] theorem State.raise_draws (s : State) (c : FaultCause) : (s.raise c).draws = s.draws := rfl
@[simp] theorem State.raise_launch (s : State) (c : FaultCause) : (s.raise c).launch = s.launch := rfl
@[simp] theorem State.raise_pending (s : State) (c : FaultCause) : (s.raise c).pending = s.pending := rfl
@[simp] theorem State.raise_getV (s : State) (c : FaultCause) (q : RegIdx) : (s.raise c).getV q = s.getV q := rfl

/-! ## Decode miss (R98) -/

@[simp] theorem State.decodeMiss_v (s : State) (op : Word) : (s.decodeMiss op).v = s.v := rfl
@[simp] theorem State.decodeMiss_i (s : State) (op : Word) : (s.decodeMiss op).i = s.i := rfl
@[simp] theorem State.decodeMiss_pc (s : State) (op : Word) : (s.decodeMiss op).pc = s.pc + 2 := rfl
@[simp] theorem State.decodeMiss_sp (s : State) (op : Word) : (s.decodeMiss op).sp = s.sp := rfl
@[simp] theorem State.decodeMiss_stack (s : State) (op : Word) : (s.decodeMiss op).stack = s.stack := rfl
@[simp] theorem State.decodeMiss_mem (s : State) (op : Word) : (s.decodeMiss op).mem = s.mem := rfl
@[simp] theorem State.decodeMiss_fb (s : State) (op : Word) : (s.decodeMiss op).fb = s.fb := rfl
@[simp] theorem State.decodeMiss_key (s : State) (op : Word) : (s.decodeMiss op).key = s.key := rfl
@[simp] theorem State.decodeMiss_dt (s : State) (op : Word) : (s.decodeMiss op).dt = s.dt := rfl
@[simp] theorem State.decodeMiss_st (s : State) (op : Word) : (s.decodeMiss op).st = s.st := rfl
@[simp] theorem State.decodeMiss_opcode (s : State) (op : Word) : (s.decodeMiss op).opcode = s.opcode := rfl
@[simp] theorem State.decodeMiss_status (s : State) (op : Word) : (s.decodeMiss op).status = .running := rfl
@[simp] theorem State.decodeMiss_faultCause (s : State) (op : Word) : (s.decodeMiss op).faultCause = s.faultCause := rfl
@[simp] theorem State.decodeMiss_report (s : State) (op : Word) : (s.decodeMiss op).report = some (.decodeMiss op) := rfl
@[simp] theorem State.decodeMiss_rand (s : State) (op : Word) : (s.decodeMiss op).rand = s.rand := rfl
@[simp] theorem State.decodeMiss_draws (s : State) (op : Word) : (s.decodeMiss op).draws = s.draws := rfl
@[simp] theorem State.decodeMiss_launch (s : State) (op : Word) : (s.decodeMiss op).launch = s.launch := rfl
@[simp] theorem State.decodeMiss_pending (s : State) (op : Word) : (s.decodeMiss op).pending = s.pending := rfl
@[simp] theorem State.decodeMiss_getV (s : State) (op : Word) (q : RegIdx) : (s.decodeMiss op).getV q = s.getV q := rfl

/-! ## A command that changes nothing -/

@[simp] theorem State.quiet_v (s : State) : (s.quiet).v = s.v := rfl
@[simp] theorem State.quiet_i (s : State) : (s.quiet).i = s.i := rfl
@[simp] theorem State.quiet_pc (s : State) : (s.quiet).pc = s.pc := rfl
@[simp] theorem State.quiet_sp (s : State) : (s.quiet).sp = s.sp := rfl
@[simp] theorem State.quiet_stack (s : State) : (s.quiet).stack = s.stack := rfl
@[simp] theorem State.quiet_mem (s : State) : (s.quiet).mem = s.mem := rfl
@[simp] theorem State.quiet_fb (s : State) : (s.quiet).fb = s.fb := rfl
@[simp] theorem State.quiet_key (s : State) : (s.quiet).key = s.key := rfl
@[simp] theorem State.quiet_dt (s : State) : (s.quiet).dt = s.dt := rfl
@[simp] theorem State.quiet_st (s : State) : (s.quiet).st = s.st := rfl
@[simp] theorem State.quiet_opcode (s : State) : (s.quiet).opcode = s.opcode := rfl
@[simp] theorem State.quiet_status (s : State) : (s.quiet).status = s.status := rfl
@[simp] theorem State.quiet_faultCause (s : State) : (s.quiet).faultCause = s.faultCause := rfl
@[simp] theorem State.quiet_report (s : State) : (s.quiet).report = none := rfl
@[simp] theorem State.quiet_rand (s : State) : (s.quiet).rand = s.rand := rfl
@[simp] theorem State.quiet_draws (s : State) : (s.quiet).draws = s.draws := rfl
@[simp] theorem State.quiet_launch (s : State) : (s.quiet).launch = s.launch := rfl
@[simp] theorem State.quiet_pending (s : State) : (s.quiet).pending = s.pending := rfl
@[simp] theorem State.quiet_getV (s : State) (q : RegIdx) : (s.quiet).getV q = s.getV q := rfl

/-! ## The ends of a STEP -/

@[simp] theorem State.beginStep_v (s : State) (rand : Byte) : (s.beginStep rand).v = s.v := rfl
@[simp] theorem State.beginStep_i (s : State) (rand : Byte) : (s.beginStep rand).i = s.i := rfl
@[simp] theorem State.beginStep_pc (s : State) (rand : Byte) : (s.beginStep rand).pc = s.pc := rfl
@[simp] theorem State.beginStep_sp (s : State) (rand : Byte) : (s.beginStep rand).sp = s.sp := rfl
@[simp] theorem State.beginStep_stack (s : State) (rand : Byte) : (s.beginStep rand).stack = s.stack := rfl
@[simp] theorem State.beginStep_mem (s : State) (rand : Byte) : (s.beginStep rand).mem = s.mem := rfl
@[simp] theorem State.beginStep_fb (s : State) (rand : Byte) : (s.beginStep rand).fb = s.fb := rfl
@[simp] theorem State.beginStep_key (s : State) (rand : Byte) : (s.beginStep rand).key = s.key := rfl
@[simp] theorem State.beginStep_dt (s : State) (rand : Byte) : (s.beginStep rand).dt = s.dt := rfl
@[simp] theorem State.beginStep_st (s : State) (rand : Byte) : (s.beginStep rand).st = s.st := rfl
@[simp] theorem State.beginStep_opcode (s : State) (rand : Byte) : (s.beginStep rand).opcode = s.opcode := rfl
@[simp] theorem State.beginStep_status (s : State) (rand : Byte) : (s.beginStep rand).status = s.status := rfl
@[simp] theorem State.beginStep_faultCause (s : State) (rand : Byte) : (s.beginStep rand).faultCause = s.faultCause := rfl
@[simp] theorem State.beginStep_report (s : State) (rand : Byte) : (s.beginStep rand).report = none := rfl
@[simp] theorem State.beginStep_rand (s : State) (rand : Byte) : (s.beginStep rand).rand = rand := rfl
@[simp] theorem State.beginStep_draws (s : State) (rand : Byte) : (s.beginStep rand).draws = s.draws := rfl
@[simp] theorem State.beginStep_launch (s : State) (rand : Byte) : (s.beginStep rand).launch = .stepped := rfl
@[simp] theorem State.beginStep_pending (s : State) (rand : Byte) : (s.beginStep rand).pending = s.pending := rfl
@[simp] theorem State.beginStep_getV (s : State) (rand : Byte) (q : RegIdx) : (s.beginStep rand).getV q = s.getV q := rfl

/-! ## The end of a STEP -/

@[simp] theorem State.endStep_v (s : State) : (s.endStep).v = s.v := rfl
@[simp] theorem State.endStep_i (s : State) : (s.endStep).i = s.i := rfl
@[simp] theorem State.endStep_pc (s : State) : (s.endStep).pc = s.pc := rfl
@[simp] theorem State.endStep_sp (s : State) : (s.endStep).sp = s.sp := rfl
@[simp] theorem State.endStep_stack (s : State) : (s.endStep).stack = s.stack := rfl
@[simp] theorem State.endStep_mem (s : State) : (s.endStep).mem = s.mem := rfl
@[simp] theorem State.endStep_fb (s : State) : (s.endStep).fb = s.fb := rfl
@[simp] theorem State.endStep_key (s : State) : (s.endStep).key = s.key := rfl
@[simp] theorem State.endStep_dt (s : State) : (s.endStep).dt = s.dt := rfl
@[simp] theorem State.endStep_st (s : State) : (s.endStep).st = s.st := rfl
@[simp] theorem State.endStep_opcode (s : State) : (s.endStep).opcode = s.opcode := rfl
@[simp] theorem State.endStep_status (s : State) : (s.endStep).status = s.status := rfl
@[simp] theorem State.endStep_faultCause (s : State) : (s.endStep).faultCause = s.faultCause := rfl
@[simp] theorem State.endStep_report (s : State) : (s.endStep).report = s.report := rfl
@[simp] theorem State.endStep_rand (s : State) : (s.endStep).rand = 0 := rfl
@[simp] theorem State.endStep_draws (s : State) : (s.endStep).draws = s.draws := rfl
@[simp] theorem State.endStep_launch (s : State) : (s.endStep).launch = s.launch := rfl
@[simp] theorem State.endStep_pending (s : State) : (s.endStep).pending = s.pending := rfl
@[simp] theorem State.endStep_getV (s : State) (q : RegIdx) : (s.endStep).getV q = s.getV q := rfl

/-! ## Flag, then result (R130) -/

@[simp] theorem State.setFlagThenResult_v (s : State) (x : RegIdx) (f b : Byte) : (s.setFlagThenResult x f b).v = (s.v.set regVF.val f regVF.isLt).set x.val b x.isLt := rfl
@[simp] theorem State.setFlagThenResult_i (s : State) (x : RegIdx) (f b : Byte) : (s.setFlagThenResult x f b).i = s.i := rfl
@[simp] theorem State.setFlagThenResult_pc (s : State) (x : RegIdx) (f b : Byte) : (s.setFlagThenResult x f b).pc = s.pc := rfl
@[simp] theorem State.setFlagThenResult_sp (s : State) (x : RegIdx) (f b : Byte) : (s.setFlagThenResult x f b).sp = s.sp := rfl
@[simp] theorem State.setFlagThenResult_stack (s : State) (x : RegIdx) (f b : Byte) : (s.setFlagThenResult x f b).stack = s.stack := rfl
@[simp] theorem State.setFlagThenResult_mem (s : State) (x : RegIdx) (f b : Byte) : (s.setFlagThenResult x f b).mem = s.mem := rfl
@[simp] theorem State.setFlagThenResult_fb (s : State) (x : RegIdx) (f b : Byte) : (s.setFlagThenResult x f b).fb = s.fb := rfl
@[simp] theorem State.setFlagThenResult_key (s : State) (x : RegIdx) (f b : Byte) : (s.setFlagThenResult x f b).key = s.key := rfl
@[simp] theorem State.setFlagThenResult_dt (s : State) (x : RegIdx) (f b : Byte) : (s.setFlagThenResult x f b).dt = s.dt := rfl
@[simp] theorem State.setFlagThenResult_st (s : State) (x : RegIdx) (f b : Byte) : (s.setFlagThenResult x f b).st = s.st := rfl
@[simp] theorem State.setFlagThenResult_opcode (s : State) (x : RegIdx) (f b : Byte) : (s.setFlagThenResult x f b).opcode = s.opcode := rfl
@[simp] theorem State.setFlagThenResult_status (s : State) (x : RegIdx) (f b : Byte) : (s.setFlagThenResult x f b).status = s.status := rfl
@[simp] theorem State.setFlagThenResult_faultCause (s : State) (x : RegIdx) (f b : Byte) : (s.setFlagThenResult x f b).faultCause = s.faultCause := rfl
@[simp] theorem State.setFlagThenResult_report (s : State) (x : RegIdx) (f b : Byte) : (s.setFlagThenResult x f b).report = s.report := rfl
@[simp] theorem State.setFlagThenResult_rand (s : State) (x : RegIdx) (f b : Byte) : (s.setFlagThenResult x f b).rand = s.rand := rfl
@[simp] theorem State.setFlagThenResult_draws (s : State) (x : RegIdx) (f b : Byte) : (s.setFlagThenResult x f b).draws = s.draws := rfl
@[simp] theorem State.setFlagThenResult_launch (s : State) (x : RegIdx) (f b : Byte) : (s.setFlagThenResult x f b).launch = s.launch := rfl
@[simp] theorem State.setFlagThenResult_pending (s : State) (x : RegIdx) (f b : Byte) : (s.setFlagThenResult x f b).pending = s.pending := rfl

/-! ## Placing an opcode -/

@[simp] theorem State.placeOpcode_v (s : State) (op : Word) : (s.placeOpcode op).v = s.v := rfl
@[simp] theorem State.placeOpcode_i (s : State) (op : Word) : (s.placeOpcode op).i = s.i := rfl
@[simp] theorem State.placeOpcode_pc (s : State) (op : Word) : (s.placeOpcode op).pc = s.pc := rfl
@[simp] theorem State.placeOpcode_sp (s : State) (op : Word) : (s.placeOpcode op).sp = s.sp := rfl
@[simp] theorem State.placeOpcode_stack (s : State) (op : Word) : (s.placeOpcode op).stack = s.stack := rfl
@[simp] theorem State.placeOpcode_mem (s : State) (op : Word) : (s.placeOpcode op).mem = s.memWithOpcode op := rfl
@[simp] theorem State.placeOpcode_fb (s : State) (op : Word) : (s.placeOpcode op).fb = s.fb := rfl
@[simp] theorem State.placeOpcode_key (s : State) (op : Word) : (s.placeOpcode op).key = s.key := rfl
@[simp] theorem State.placeOpcode_dt (s : State) (op : Word) : (s.placeOpcode op).dt = s.dt := rfl
@[simp] theorem State.placeOpcode_st (s : State) (op : Word) : (s.placeOpcode op).st = s.st := rfl
@[simp] theorem State.placeOpcode_opcode (s : State) (op : Word) : (s.placeOpcode op).opcode = s.opcode := rfl
@[simp] theorem State.placeOpcode_status (s : State) (op : Word) : (s.placeOpcode op).status = (if s.status = .halted then .running else s.status) := rfl
@[simp] theorem State.placeOpcode_faultCause (s : State) (op : Word) : (s.placeOpcode op).faultCause = (if s.status = .halted then .none else s.faultCause) := rfl
@[simp] theorem State.placeOpcode_report (s : State) (op : Word) : (s.placeOpcode op).report = s.report := rfl
@[simp] theorem State.placeOpcode_rand (s : State) (op : Word) : (s.placeOpcode op).rand = s.rand := rfl
@[simp] theorem State.placeOpcode_draws (s : State) (op : Word) : (s.placeOpcode op).draws = s.draws := rfl
@[simp] theorem State.placeOpcode_launch (s : State) (op : Word) : (s.placeOpcode op).launch = s.launch := rfl
@[simp] theorem State.placeOpcode_pending (s : State) (op : Word) : (s.placeOpcode op).pending = [] := rfl
@[simp] theorem State.placeOpcode_getV (s : State) (op : Word) (q : RegIdx) : (s.placeOpcode op).getV q = s.getV q := rfl

/-! ## The parameters of R4 and the address of the next instruction -/

/-- SP_WIDTH bits hold every value of sp (R4, R24). -/
theorem spWidth_fits : Config.stackDepth < 2 ^ Config.spWidth := by decide

/-- The font table has FONT_LEN bytes (R4, R33), and lies in the reserved area. -/
theorem font_fits :
    Config.font.length = Config.fontLen ∧ Config.fontBase + Config.fontLen ≤ Config.reservedEnd + 1 := by decide

@[simp] theorem State.pcAfter_one (s : State) : s.pcAfter 1 = s.pc + 2 := rfl
@[simp] theorem State.pcAfter_two (s : State) : s.pcAfter 2 = s.pc + 4 := rfl

/-! ## Bounds with the widths of Config written out, for omega -/

theorem regIdx_lt (r : RegIdx) : r.val < 16 := r.isLt
theorem keyIdx_lt (k : KeyIdx) : k.val < 16 := k.isLt
theorem State.pc_lt (s : State) : s.pc.toNat < 65536 := s.pc.isLt
theorem State.i_lt (s : State) : s.i.toNat < 65536 := s.i.isLt
theorem State.sp_le (s : State) : s.sp.val ≤ 16 := Nat.le_of_lt_succ s.sp.isLt
theorem State.dt_lt (s : State) : s.dt.toNat < 256 := s.dt.isLt
theorem State.st_lt (s : State) : s.st.toNat < 256 := s.st.isLt

/-- Every next address is modulo 65536 (R23, R97). -/
theorem State.pcAfter_toNat (s : State) (n : Nat) : (s.pcAfter n).toNat = (s.pc.toNat + n * 2) % 65536 := by
  simp [State.pcAfter]

/-- A timer counts down and stops at 0 (R28, R193). -/
theorem timerDown_toNat (b : BitVec Config.timerWidth) : (timerDown b).toNat = b.toNat - 1 := by
  have h8 : b.toNat < 256 := b.isLt
  unfold timerDown
  split
  · rename_i h
    rw [h]
    rfl
  · rename_i h
    have h0 : b.toNat ≠ 0 := fun e => h (BitVec.eq_of_toNat_eq e)
    rw [BitVec.toNat_sub]
    show (256 - 1 + b.toNat) % 256 = b.toNat - 1
    omega

/-! ## Registers (R20) and the flag order (R130) -/

/-- What a register reads after one register write. -/
theorem State.getV_setV (s : State) (r q : RegIdx) (b : Byte) :
    (s.setV r b).getV q = if q = r then b else s.getV q := by
  have h : (r.val = q.val) ↔ (q = r) := by rw [Fin.ext_iff]; exact eq_comm
  simp [State.getV, State.setV, Vector.getElem_set, h]

@[simp] theorem State.getV_setV_same (s : State) (r : RegIdx) (b : Byte) : (s.setV r b).getV r = b := by
  simp [State.getV_setV]

theorem State.getV_setV_ne (s : State) {r q : RegIdx} (b : Byte) (h : q ≠ r) : (s.setV r b).getV q = s.getV q := by
  simp [State.getV_setV, h]

/-- What a register reads after flag and result: the result where it is the destination, else the flag in VF. -/
theorem State.getV_setFlagThenResult (s : State) (x q : RegIdx) (f b : Byte) :
    (s.setFlagThenResult x f b).getV q = if q = x then b else if q = regVF then f else s.getV q := by
  simp [State.setFlagThenResult, State.getV_setV]

/-- Equal register files are files whose registers are equal. -/
theorem State.v_eq_of_getV (s t : State) (h : ∀ r, t.getV r = s.getV r) : t.v = s.v := by
  refine Vector.ext fun k hk => ?_
  exact h ⟨k, hk⟩

/-! ## Stack (R24) -/

/-- The push answers exactly when the stack is not full, and then writes one entry and sp. -/
theorem State.push_eq (s : State) (w : Word) (h : s.sp.val < Config.stackDepth) :
    s.push w = some { s with stack := s.stack.set s.sp.val w h, sp := ⟨s.sp.val + 1, by omega⟩ } := by
  simp [State.push, h]

theorem State.push_full (s : State) (w : Word) (h : s.sp.val = Config.stackDepth) : s.push w = none := by
  simp [State.push, h]

/-- The pop answers exactly when the stack is not empty, and then changes sp only. -/
theorem State.pop_eq (s : State) (h : s.sp.val ≠ 0) :
    s.pop = some (s.stack[s.sp.val - 1]'(by omega), { s with sp := ⟨s.sp.val - 1, by omega⟩ }) := by
  simp [State.pop, h]

theorem State.pop_empty (s : State) (h : s.sp.val = 0) : s.pop = none := by
  simp [State.pop, h]

/-! ## Register ranges (R154, R155) -/

/-- What a register holds after a range load: the byte of its place in the range, else what it held. -/
theorem loadRegsFrom_getElem (bs : List Byte) :
    ∀ (v : Vector Byte Config.nregs) (k j : Nat) (hj : j < Config.nregs),
      (loadRegsFrom v k bs)[j] = if k ≤ j then bs.getD (j - k) v[j] else v[j] := by
  induction bs with
  | nil => intro v k j hj; simp [loadRegsFrom]
  | cons b bs ih =>
    intro v k j hj
    rw [loadRegsFrom, ih, Vector.getElem_setIfInBounds]
    by_cases h1 : k + 1 ≤ j
    · have h2 : j - k = (j - (k + 1)) + 1 := by omega
      have h3 : k ≠ j := by omega
      have h4 : k ≤ j := by omega
      simp [h1, h4, h3, h2]
    · by_cases h2 : k = j
      · subst h2; simp
      · have h4 : ¬ k ≤ j := by omega
        simp [h1, h4, h2]

/-- The k-th of V0 to VX is V[k]. -/
theorem State.regsUpTo_getD (s : State) (x k : RegIdx) (h : k.val ≤ x.val) (d : Byte) :
    (s.regsUpTo x).getD k.val d = s.getV k := by
  have h1 : k.val < x.val + 1 := by omega
  simp [State.regsUpTo, State.getV, h1]

theorem State.regsUpTo_length (s : State) (x : RegIdx) : (s.regsUpTo x).length = x.val + 1 := by
  simp [State.regsUpTo]

/-! ## The range check (R55) -/

/-- What the range check says of a non-empty access: its last byte is at most 0xFFF. -/
theorem inRange_iff {a n : Nat} (hn : 0 < n) : inRange a n = true ↔ a + n ≤ Config.memSize := by
  simp [inRange]
  omega

@[simp] theorem inRange_zero (a : Nat) : inRange a 0 = true := rfl

theorem State.fetchOk_iff (s : State) : s.fetchOk = true ↔ s.pc.toNat ≤ 0xFFE := by
  unfold State.fetchOk
  rw [inRange_iff (by decide)]
  simp only [Config.memSize, Config.instrBytes]
  omega

/-! ## Keys (R182, R183) -/

theorem keyIndex_of_lt (b : Byte) (h : b.toNat < Config.nkeys) : keyIndex b = some ⟨b.toNat, h⟩ := by simp [keyIndex, h]

theorem keyIndex_of_ge (b : Byte) (h : 15 < b.toNat) : keyIndex b = none := by
  have : ¬ b.toNat < Config.nkeys := by simp only [Config.nkeys]; omega
  simp [keyIndex, this]

/-- No key is found exactly when none is pressed. -/
theorem firstPressed_none (keys : Vector Bool Config.nkeys) : firstPressed keys = none ↔ ∀ k : KeyIdx, keys[k] = false := by
  simp [firstPressed]

/-- A key that is found is pressed. -/
theorem firstPressed_pressed (keys : Vector Bool Config.nkeys) (k : KeyIdx) (h : firstPressed keys = some k) : keys[k] = true := by
  simpa using List.find?_some h

end Sys2Proof.Machine
end

