-- ==== Sys2Proof/Laws/Frame.lean ====
section
/-! SUPPORT. Frames: the parts of Safety.lean cover the whole state, so that a frame says everything; and the frame of
each way an instruction can end. -/

namespace Sys2Proof.Machine

/-- Two states with canonical memories in which every part is the same are equal: no field escapes a frame. -/
theorem State.eq_of_parts (s t : State) (hs : s.mem.wf = true) (ht : t.mem.wf = true)
    (h : ∀ p : Part, p.Same s t) : t = s := by
  have hv : t.v = s.v := State.v_eq_of_getV s t fun r => h (.reg r)
  have hmem : t.mem = s.mem := Memory.eq_of_read t.mem s.mem 0 ht hs fun a => h (.memByte a)
  have hfb : t.fb = s.fb := FrameBuffer.eq_of_pixel t.fb s.fb fun k hk => h (.pixel ⟨k, hk⟩)
  have hstack : t.stack = s.stack := Vector.ext fun k hk => h (.stackEntry ⟨k, hk⟩)
  have hkey : t.key = s.key := Vector.ext fun k hk => h (.key ⟨k, hk⟩)
  have h1 := h .index
  have h2 := h .pc
  have h3 := h .sp
  have h4 := h .dt
  have h5 := h .st
  have h6 := h .opcode
  have h7 := h .status
  have h8 := h .faultCause
  have h9 := h .report
  have h10 := h .rand
  have h11 := h .draws
  have h12 := h .launch
  have h13 := h .pending
  cases s
  cases t
  simp_all [Part.Same]

/-- Nothing changes between a state and itself. -/
theorem OnlyChanges.refl (s : State) (c : Part → Prop) : OnlyChanges s s c := fun p _ => by
  cases p <;> rfl

/-- A fault changes status and fault_cause only (R205, R206). -/
theorem State.raise_frame (s : State) (c : FaultCause) :
    OnlyChanges s (s.raise c) (fun p => p = .status ∨ p = .faultCause) := fun p hp => by
  cases p <;> first | rfl | exact absurd (Or.inl rfl) hp | exact absurd (Or.inr rfl) hp

/-- An instruction that completes after changes within `c` changes besides only pc and status. -/
theorem State.retire_frame {s t : State} {c : Part → Prop} (w : Word) (h : OnlyChanges s t c) :
    OnlyChanges s (t.retire w) (fun p => p = .pc ∨ p = .status ∨ c p) := fun p hp => by
  have hc := h p fun hcp => hp (.inr (.inr hcp))
  cases p <;> first | exact hc | exact absurd (Or.inl rfl) hp | exact absurd (Or.inr (Or.inl rfl)) hp

/-- A register write changes that register only. -/
theorem State.setV_frame (s : State) (r : RegIdx) (b : Byte) : OnlyChanges s (s.setV r b) (fun p => p = .reg r) :=
  fun p hp => by
    cases p with
    | reg q => exact State.getV_setV_ne s b fun h => hp (congrArg Part.reg h)
    | _ => rfl

/-- Flag and result change VF and the destination only (R130). -/
theorem State.setFlagThenResult_frame (s : State) (x : RegIdx) (f b : Byte) :
    OnlyChanges s (s.setFlagThenResult x f b) (fun p => p = .reg x ∨ p = .reg regVF) := fun p hp => by
  cases p with
  | reg q =>
    show (s.setFlagThenResult x f b).getV q = s.getV q
    rw [State.getV_setFlagThenResult, if_neg fun h => hp (.inl (congrArg Part.reg h)),
      if_neg fun h => hp (.inr (congrArg Part.reg h))]
  | _ => rfl

/-- A store of consecutive bytes changes those bytes only. -/
theorem State.store_frame (s : State) (a : Nat) (ws : List Byte) :
    OnlyChanges s { s with mem := s.mem.writeBytes a ws }
      (fun p => ∃ k, k < ws.length ∧ p = .memByte (a + k)) := fun p hp => by
  cases p with
  | memByte b =>
    refine Memory.read_writeBytes_outside s.mem a b ws ?_
    by_contra hb
    exact hp ⟨b - a, by omega, by congr 1; omega⟩
  | _ => rfl

end Sys2Proof.Machine
end

