-- ==== Sys2Proof/Laws/PerInstr.lean ====
section
/-! SUPPORT. Per instruction: its encoding is a row of the opcode map (30_encoding.md R74, R75), whatever its operands. -/

namespace Sys2Proof.Laws.EncodingInTable

/-- The opcode of the instruction matches the row of the map that bears its mnemonic. -/
def Statement (i : Instr) : Prop := ∃ r ∈ opcodeTable, r.mnemonic = mnemonicOf i ∧ r.matchesOp (encode i) = true

theorem cls : Statement .cls :=
  ⟨⟨"CLS", 0x00E0, 0xFFFF⟩, by decide, rfl, by decide⟩

theorem ret : Statement .ret :=
  ⟨⟨"RET", 0x00EE, 0xFFFF⟩, by decide, rfl, by decide⟩

theorem jp (nnn : Addr12) : Statement (.jp nnn) :=
  ⟨⟨"JP", 0x1000, 0xF000⟩, by decide, rfl, beq_iff_eq.mpr ((formatA_mask ..).trans (by decide))⟩

theorem call (nnn : Addr12) : Statement (.call nnn) :=
  ⟨⟨"CALL", 0x2000, 0xF000⟩, by decide, rfl, beq_iff_eq.mpr ((formatA_mask ..).trans (by decide))⟩

theorem seImm (x : RegIdx) (nn : Byte) : Statement (.seImm x nn) :=
  ⟨⟨"SE_IMM", 0x3000, 0xF000⟩, by decide, rfl, beq_iff_eq.mpr ((formatXI_mask ..).trans (by decide))⟩

theorem sneImm (x : RegIdx) (nn : Byte) : Statement (.sneImm x nn) :=
  ⟨⟨"SNE_IMM", 0x4000, 0xF000⟩, by decide, rfl, beq_iff_eq.mpr ((formatXI_mask ..).trans (by decide))⟩

theorem seReg (x y : RegIdx) : Statement (.seReg x y) :=
  ⟨⟨"SE_REG", 0x5000, 0xF00F⟩, by decide, rfl, beq_iff_eq.mpr ((formatXY_mask ..).trans (by decide))⟩

theorem sneReg (x y : RegIdx) : Statement (.sneReg x y) :=
  ⟨⟨"SNE_REG", 0x9000, 0xF00F⟩, by decide, rfl, beq_iff_eq.mpr ((formatXY_mask ..).trans (by decide))⟩

theorem ldImm (x : RegIdx) (nn : Byte) : Statement (.ldImm x nn) :=
  ⟨⟨"LD_IMM", 0x6000, 0xF000⟩, by decide, rfl, beq_iff_eq.mpr ((formatXI_mask ..).trans (by decide))⟩

theorem addImm (x : RegIdx) (nn : Byte) : Statement (.addImm x nn) :=
  ⟨⟨"ADD_IMM", 0x7000, 0xF000⟩, by decide, rfl, beq_iff_eq.mpr ((formatXI_mask ..).trans (by decide))⟩

theorem ldReg (x y : RegIdx) : Statement (.ldReg x y) :=
  ⟨⟨"LD_REG", 0x8000, 0xF00F⟩, by decide, rfl, beq_iff_eq.mpr ((formatXY_mask ..).trans (by decide))⟩

theorem orReg (x y : RegIdx) : Statement (.orReg x y) :=
  ⟨⟨"OR", 0x8001, 0xF00F⟩, by decide, rfl, beq_iff_eq.mpr ((formatXY_mask ..).trans (by decide))⟩

theorem andReg (x y : RegIdx) : Statement (.andReg x y) :=
  ⟨⟨"AND", 0x8002, 0xF00F⟩, by decide, rfl, beq_iff_eq.mpr ((formatXY_mask ..).trans (by decide))⟩

theorem xorReg (x y : RegIdx) : Statement (.xorReg x y) :=
  ⟨⟨"XOR", 0x8003, 0xF00F⟩, by decide, rfl, beq_iff_eq.mpr ((formatXY_mask ..).trans (by decide))⟩

theorem addReg (x y : RegIdx) : Statement (.addReg x y) :=
  ⟨⟨"ADD_REG", 0x8004, 0xF00F⟩, by decide, rfl, beq_iff_eq.mpr ((formatXY_mask ..).trans (by decide))⟩

theorem sub (x y : RegIdx) : Statement (.sub x y) :=
  ⟨⟨"SUB", 0x8005, 0xF00F⟩, by decide, rfl, beq_iff_eq.mpr ((formatXY_mask ..).trans (by decide))⟩

theorem shr (x y : RegIdx) : Statement (.shr x y) :=
  ⟨⟨"SHR", 0x8006, 0xF00F⟩, by decide, rfl, beq_iff_eq.mpr ((formatXY_mask ..).trans (by decide))⟩

theorem subn (x y : RegIdx) : Statement (.subn x y) :=
  ⟨⟨"SUBN", 0x8007, 0xF00F⟩, by decide, rfl, beq_iff_eq.mpr ((formatXY_mask ..).trans (by decide))⟩

theorem shl (x y : RegIdx) : Statement (.shl x y) :=
  ⟨⟨"SHL", 0x800E, 0xF00F⟩, by decide, rfl, beq_iff_eq.mpr ((formatXY_mask ..).trans (by decide))⟩

theorem ldI (nnn : Addr12) : Statement (.ldI nnn) :=
  ⟨⟨"LD_I", 0xA000, 0xF000⟩, by decide, rfl, beq_iff_eq.mpr ((formatA_mask ..).trans (by decide))⟩

theorem jpV0 (nnn : Addr12) : Statement (.jpV0 nnn) :=
  ⟨⟨"JP_V0", 0xB000, 0xF000⟩, by decide, rfl, beq_iff_eq.mpr ((formatA_mask ..).trans (by decide))⟩

theorem rnd (x : RegIdx) (nn : Byte) : Statement (.rnd x nn) :=
  ⟨⟨"RND", 0xC000, 0xF000⟩, by decide, rfl, beq_iff_eq.mpr ((formatXI_mask ..).trans (by decide))⟩

theorem drw (x y : RegIdx) (n : BitVec 4) : Statement (.drw x y n) :=
  ⟨⟨"DRW", 0xD000, 0xF000⟩, by decide, rfl, beq_iff_eq.mpr ((formatXYN_mask ..).trans (by decide))⟩

theorem skp (x : RegIdx) : Statement (.skp x) :=
  ⟨⟨"SKP", 0xE09E, 0xF0FF⟩, by decide, rfl, beq_iff_eq.mpr ((formatXS_mask ..).trans (by decide))⟩

theorem sknp (x : RegIdx) : Statement (.sknp x) :=
  ⟨⟨"SKNP", 0xE0A1, 0xF0FF⟩, by decide, rfl, beq_iff_eq.mpr ((formatXS_mask ..).trans (by decide))⟩

theorem ldVxDt (x : RegIdx) : Statement (.ldVxDt x) :=
  ⟨⟨"LD_VX_DT", 0xF007, 0xF0FF⟩, by decide, rfl, beq_iff_eq.mpr ((formatXS_mask ..).trans (by decide))⟩

theorem ldDtVx (x : RegIdx) : Statement (.ldDtVx x) :=
  ⟨⟨"LD_DT_VX", 0xF015, 0xF0FF⟩, by decide, rfl, beq_iff_eq.mpr ((formatXS_mask ..).trans (by decide))⟩

theorem ldStVx (x : RegIdx) : Statement (.ldStVx x) :=
  ⟨⟨"LD_ST_VX", 0xF018, 0xF0FF⟩, by decide, rfl, beq_iff_eq.mpr ((formatXS_mask ..).trans (by decide))⟩

theorem ldVxK (x : RegIdx) : Statement (.ldVxK x) :=
  ⟨⟨"LD_VX_K", 0xF00A, 0xF0FF⟩, by decide, rfl, beq_iff_eq.mpr ((formatXS_mask ..).trans (by decide))⟩

theorem addI (x : RegIdx) : Statement (.addI x) :=
  ⟨⟨"ADD_I", 0xF01E, 0xF0FF⟩, by decide, rfl, beq_iff_eq.mpr ((formatXS_mask ..).trans (by decide))⟩

theorem ldF (x : RegIdx) : Statement (.ldF x) :=
  ⟨⟨"LD_F", 0xF029, 0xF0FF⟩, by decide, rfl, beq_iff_eq.mpr ((formatXS_mask ..).trans (by decide))⟩

theorem ldB (x : RegIdx) : Statement (.ldB x) :=
  ⟨⟨"LD_B", 0xF033, 0xF0FF⟩, by decide, rfl, beq_iff_eq.mpr ((formatXS_mask ..).trans (by decide))⟩

theorem stRegs (x : RegIdx) : Statement (.stRegs x) :=
  ⟨⟨"ST_REGS", 0xF055, 0xF0FF⟩, by decide, rfl, beq_iff_eq.mpr ((formatXS_mask ..).trans (by decide))⟩

theorem ldRegs (x : RegIdx) : Statement (.ldRegs x) :=
  ⟨⟨"LD_REGS", 0xF065, 0xF0FF⟩, by decide, rfl, beq_iff_eq.mpr ((formatXS_mask ..).trans (by decide))⟩

end Sys2Proof.Laws.EncodingInTable
end

