-- ==== Sys2Proof/Laws/Step.lean ====
section
/-! SUPPORT. Which command a step takes, what each command can answer, and that an opcode placed at pc is the one
fetched. -/

namespace Sys2Proof.Machine

theorem takeCommand_nil (s : State) (h : s.pending = []) :
    takeCommand s = (.step (Config.freeRand s.draws), { s with draws := s.draws + 1 }) := by
  simp [takeCommand, h]

theorem takeCommand_cons (s : State) (c : Command) (rest : List Command) (h : s.pending = c :: rest) :
    takeCommand s = (c, { s with pending := rest }) := by
  simp [takeCommand, h]

/-- With a command pending, a step is that command. -/
theorem step_cons (s : State) (c : Command) (rest : List Command) (h : s.pending = c :: rest) :
    step s = runCommand c { s with pending := rest } := by
  rw [step, takeCommand_cons s c rest h]

/-- Everything a step can be: a pending command, or a STEP with a free rand byte. -/
theorem step_cases (s : State) :
    (∃ c rest, s.pending = c :: rest ∧ step s = runCommand c { s with pending := rest }) ∨
      (s.pending = [] ∧ step s = stepCommand (Config.freeRand s.draws) { s with draws := s.draws + 1 }) := by
  by_cases h : s.pending = []
  · exact .inr ⟨h, by rw [step, takeCommand_nil s h]; rfl⟩
  · obtain ⟨c, rest, hc⟩ := List.exists_cons_of_ne_nil h
    exact .inl ⟨c, rest, hc, step_cons s c rest hc⟩

/-- A STEP that answers a next state answers the end of what its execute stage answered. -/
theorem endStepResult_next {r : Result} {t : State} (h : endStepResult r = .next t) :
    ∃ u, r = .next u ∧ t = u.endStep := by
  cases r with
  | next u => exact ⟨u, rfl, by simpa [endStepResult] using h.symm⟩
  | fault f => nomatch h
  | refused q => nomatch h

/-- Everything a STEP that is not ignored can do: a fetch fault, a decode miss, or the decoded instruction. -/
theorem fetchAndExecute_cases (s : State) :
    (s.fetchOk = false ∧ fetchAndExecute s = .next (s.raise .fetchFault)) ∨
      (s.fetchOk = true ∧ decode s.fetchOpcode = none ∧
        fetchAndExecute s = .next (State.decodeMiss { s with opcode := s.fetchOpcode } s.fetchOpcode)) ∨
      (∃ i, s.fetchOk = true ∧ decode s.fetchOpcode = some i ∧
        fetchAndExecute s = exec i { s with opcode := s.fetchOpcode }) := by
  unfold fetchAndExecute decodeAndExecute
  cases hf : s.fetchOk with
  | false => exact .inl ⟨rfl, by simp⟩
  | true =>
    cases hd : decode s.fetchOpcode with
    | none => exact .inr (.inl ⟨rfl, rfl, by simp⟩)
    | some i => exact .inr (.inr ⟨i, rfl, rfl, by simp⟩)

/-- Everything a LOAD can do (R92, R208, 93 U12). -/
theorem loadCommand_cases (bytes : List Byte) (s : State) :
    (s.status = .halted ∧ loadCommand bytes s = .next s.quiet) ∨
      (s.status ≠ .halted ∧ s.launch ≠ .fresh ∧ loadCommand bytes s = .refused .loadOutsideLaunch) ∨
      (s.status ≠ .halted ∧ s.launch = .fresh ∧ Config.maxProg < bytes.length ∧
        loadCommand bytes s = .next { s with report := some .loadError }) ∨
      (s.status ≠ .halted ∧ s.launch = .fresh ∧ bytes.length ≤ Config.maxProg ∧
        loadCommand bytes s =
          .next { s.quiet with mem := s.mem.writeBytes Config.progBase bytes, launch := .loaded }) := by
  unfold loadCommand
  split
  · exact .inl ⟨‹_›, rfl⟩
  · split
    · exact .inr (.inl ⟨‹_›, ‹_›, rfl⟩)
    · rename_i h1 h2
      split
      · exact .inr (.inr (.inl ⟨h1, not_not.mp h2, ‹_›, rfl⟩))
      · exact .inr (.inr (.inr ⟨h1, not_not.mp h2, Nat.le_of_not_lt ‹_›, rfl⟩))

/-- The opcode placed at a pc in range is the one the next fetch reads. -/
theorem State.fetchOpcode_placeOpcode (s : State) (op : Word) (h : s.fetchOk = true) :
    (s.placeOpcode op).fetchOpcode = op := by
  have h0 : ∀ m : Memory, Memory.readOpcode (m.writeBytes s.pc.toNat (opcodeBytes op)) s.pc.toNat = op := fun m => by
    simp [Memory.readOpcode, Memory.read_writeBytes, opcodeBytes]
  show Memory.readOpcode (s.memWithOpcode op) s.pc.toNat = op
  rw [State.memWithOpcode, if_pos h]
  exact h0 s.mem

end Sys2Proof.Machine
end

