-- ==== Sys2Proof/Tests/Slice0.lean ====
section
/-! SUPPORT. The model's own tests: words written out from the encodings of 30_encoding.md R75 and decoded; ill-formed
opcodes refused; single steps with the expected values of 95_test_vectors.md part 2 (each test names its vector); and for
every obligation with hypotheses a named state and operands that meet them, at the boundary of each clause. -/

namespace Sys2Proof.Tests

open Sys2Proof Sys2Proof.Machine

/-! ## Small states -/

/-- The reset state with some general registers set. -/
def withRegs (l : List (RegIdx × Byte)) : State := l.foldl (fun s p => s.setV p.1 p.2) State.reset

/-- A state with some bytes of memory set. -/
def withMem (a : Nat) (bytes : List Byte) (s : State) : State := { s with mem := s.mem.writeBytes a bytes }

/-- One STEP with the opcode placed at pc, and a view of the state after. -/
def stepped {α : Type} (op : Word) (rand : Byte) (s : State) (view : State → α) : Option α :=
  match stepCommand rand (s.placeOpcode op) with
  | .next t => some (view t)
  | _ => none

/-- One command, and a view of the state after. -/
def commanded {α : Type} (c : Command) (s : State) (view : State → α) : Option α :=
  match runCommand c s with
  | .next t => some (view t)
  | _ => none

/-- The indices of the pixels equal to 1 among some indices. -/
def litAmong (ks : List Nat) (s : State) : List Nat := ks.filter s.fb.pixel

/-- The framebuffer with some pixels 1. -/
def fbOf (ks : List Nat) : FrameBuffer := ks.foldl FrameBuffer.invert FrameBuffer.clear

/-- A halted state (StackUnderflow). -/
def haltedState : State := { State.reset with status := .halted, faultCause := .stackUnderflow }

/-! ## Decoding: one word per row, its four nibbles from R75 -/

theorem test_decode_cls : decode 0x00E0 = some .cls := by decide
theorem test_decode_ret : decode 0x00EE = some .ret := by decide
theorem test_decode_jp : decode 0x1ABC = some (.jp 0xABC) := by decide
theorem test_decode_call : decode 0x2FED = some (.call 0xFED) := by decide
theorem test_decode_se_imm : decode 0x3A42 = some (.seImm 0xA 0x42) := by decide
theorem test_decode_sne_imm : decode 0x4B81 = some (.sneImm 0xB 0x81) := by decide
theorem test_decode_se_reg : decode 0x5120 = some (.seReg 0x1 0x2) := by decide
theorem test_decode_sne_reg : decode 0x9F30 = some (.sneReg 0xF 0x3) := by decide
theorem test_decode_ld_imm : decode 0x6C07 = some (.ldImm 0xC 0x07) := by decide
theorem test_decode_add_imm : decode 0x7DFE = some (.addImm 0xD 0xFE) := by decide
theorem test_decode_ld_reg : decode 0x8120 = some (.ldReg 0x1 0x2) := by decide
theorem test_decode_or : decode 0x8341 = some (.orReg 0x3 0x4) := by decide
theorem test_decode_and : decode 0x8562 = some (.andReg 0x5 0x6) := by decide
theorem test_decode_xor : decode 0x8783 = some (.xorReg 0x7 0x8) := by decide
theorem test_decode_add_reg : decode 0x89A4 = some (.addReg 0x9 0xA) := by decide
theorem test_decode_sub : decode 0x8BC5 = some (.sub 0xB 0xC) := by decide
theorem test_decode_shr : decode 0x8DE6 = some (.shr 0xD 0xE) := by decide
theorem test_decode_subn : decode 0x8F07 = some (.subn 0xF 0x0) := by decide
theorem test_decode_shl : decode 0x812E = some (.shl 0x1 0x2) := by decide
theorem test_decode_ld_i : decode 0xA123 = some (.ldI 0x123) := by decide
theorem test_decode_jp_v0 : decode 0xBFFF = some (.jpV0 0xFFF) := by decide
theorem test_decode_rnd : decode 0xC10F = some (.rnd 0x1 0x0F) := by decide
theorem test_decode_drw : decode 0xD123 = some (.drw 0x1 0x2 0x3) := by decide
theorem test_decode_skp : decode 0xE19E = some (.skp 0x1) := by decide
theorem test_decode_sknp : decode 0xE2A1 = some (.sknp 0x2) := by decide
theorem test_decode_ld_vx_dt : decode 0xF307 = some (.ldVxDt 0x3) := by decide
theorem test_decode_ld_dt_vx : decode 0xF415 = some (.ldDtVx 0x4) := by decide
theorem test_decode_ld_st_vx : decode 0xF518 = some (.ldStVx 0x5) := by decide
theorem test_decode_ld_vx_k : decode 0xF60A = some (.ldVxK 0x6) := by decide
theorem test_decode_add_i : decode 0xF71E = some (.addI 0x7) := by decide
theorem test_decode_ld_f : decode 0xF829 = some (.ldF 0x8) := by decide
theorem test_decode_ld_b : decode 0xF933 = some (.ldB 0x9) := by decide
theorem test_decode_st_regs : decode 0xFA55 = some (.stRegs 0xA) := by decide
theorem test_decode_ld_regs : decode 0xFB65 = some (.ldRegs 0xB) := by decide

/-- Vectors X1 to X13: decode misses of every family that has them. -/
theorem test_decode_misses :
    [0x0000, 0x01E0, 0x00E1, 0x0123, 0x5121, 0x9ABF, 0x8128, 0x812F, 0xE000, 0xE19F, 0xF000, 0xF175, 0xFFFF].map
      (fun n => decode (BitVec.ofNat 16 n)) = List.replicate 13 none := by decide

/-- R70: one byte is no opcode. -/
theorem test_decode_truncated : decodeBytes [0x60] = .error .truncated := rfl

/-- R52: the first byte is the high one, and the rest is left. -/
theorem test_decode_big_endian : decodeBytes [0x6A, 0x42, 0x12] = .ok (.ldImm 0xA 0x42, [0x12]) := rfl

/-- X4 at the byte level: the error names the opcode. -/
theorem test_decode_miss_named : decodeBytes [0x01, 0x23] = .error (.decodeMiss 0x0123) := rfl

/-- The table's numbering: the word is the opcode. -/
theorem test_decode_table_word : decodeTableWord 16 0x8124 = some (.addReg 1 2) := by decide

/-! ## WellFormed: an opcode that each kind of row refuses -/

/-- Mask 0xFFFF: all 16 bits are fixed. -/
theorem test_ill_formed_family_0 : opcodeWellFormed 0x01E0 = false ∧ opcodeWellFormed 0x00EF = false := by decide

/-- Mask 0xF00F: the low nibble is fixed, in the families of one row and in family 8. -/
theorem test_ill_formed_low_nibble :
    opcodeWellFormed 0x5121 = false ∧ opcodeWellFormed 0x9ABF = false ∧ opcodeWellFormed 0x8128 = false := by decide

/-- Mask 0xF0FF: the low byte is fixed. -/
theorem test_ill_formed_low_byte : opcodeWellFormed 0xE19F = false ∧ opcodeWellFormed 0xF175 = false := by decide

/-- Mask 0xF000: every opcode of the family is an instruction. -/
theorem test_well_formed_families : opcodeWellFormed 0x1FFF = true ∧ opcodeWellFormed 0xD000 = true := by decide

/-- R78: the assembly of two opcodes of programs P1 and P7. -/
theorem test_assembly :
    assemblyOf (.addImm 0 0x03) = "ADD V0, 0x03" ∧ assemblyOf (.stRegs 1) = "LD [I], V1" := by decide

/-! ## Control transfer (95_test_vectors.md section 2.1) -/

/-- C1 -/
theorem test_jp : stepped 0x1ABC 0 State.reset (·.pc) = some 0xABC := by decide

/-- C4 -/
theorem test_call_top :
    stepped 0x2300 0 { State.reset with pc := 0x400, sp := 15 } (fun t => (t.stack[15], t.sp.val, t.pc)) =
      some (0x402, 16, 0x300) := by decide

/-- C5 -/
theorem test_call_overflow :
    stepped 0x2300 0 { State.reset with pc := 0x400, sp := 16 }
      (fun t => (t.status, t.faultCause.code, t.pc, t.sp.val)) = some (.halted, 1, 0x400, 16) := by decide

/-- C7 -/
theorem test_ret :
    stepped 0x00EE 0 { State.reset with pc := 0x300, sp := 1, stack := State.reset.stack.set 0 0x202 }
      (fun t => (t.sp.val, t.pc, t.stack[0])) = some (0, 0x202, 0x202) := by decide

/-- C6 -/
theorem test_ret_underflow :
    stepped 0x00EE 0 State.reset (fun t => (t.status, t.faultCause.code, t.pc)) = some (.halted, 2, 0x200) := by decide

/-- C10 -/
theorem test_jp_v0_not_masked : stepped 0xBFFF 0 (withRegs [(0, 0xFF)]) (·.pc) = some 0x10FE := by decide

/-- C11, C12 -/
theorem test_se_imm :
    stepped 0x3A42 0 (withRegs [(0xA, 0x42)]) (·.pc) = some 0x204 ∧
      stepped 0x3A42 0 (withRegs [(0xA, 0x43)]) (·.pc) = some 0x202 := by decide

/-- C13, C14 -/
theorem test_sne_imm :
    stepped 0x4A42 0 (withRegs [(0xA, 0x42)]) (·.pc) = some 0x202 ∧
      stepped 0x4A42 0 (withRegs [(0xA, 0x43)]) (·.pc) = some 0x204 := by decide

/-- C15, C16 -/
theorem test_se_reg :
    stepped 0x5120 0 (withRegs [(1, 7), (2, 7)]) (·.pc) = some 0x204 ∧
      stepped 0x5120 0 (withRegs [(1, 7), (2, 8)]) (·.pc) = some 0x202 := by decide

/-- C18, C19 -/
theorem test_sne_reg :
    stepped 0x9120 0 (withRegs [(1, 7), (2, 8)]) (·.pc) = some 0x204 ∧
      stepped 0x9120 0 (withRegs [(1, 7), (2, 7)]) (·.pc) = some 0x202 := by decide

/-! ## Loads, arithmetic, logic, shifts, random (sections 2.2 and 2.3) -/

/-- A2 -/
theorem test_ld_imm_vf : stepped 0x6F07 0 State.reset (fun t => (t.getV 0xF, t.pc)) = some (0x07, 0x202) := by decide

/-- A3 -/
theorem test_add_imm_no_flag :
    stepped 0x7A01 0 (withRegs [(0xA, 0xFF), (0xF, 0x55)]) (fun t => (t.getV 0xA, t.getV 0xF)) = some (0x00, 0x55) := by
  decide

/-- A5 -/
theorem test_ld_reg : stepped 0x8120 0 (withRegs [(1, 1), (2, 9)]) (fun t => (t.getV 1, t.getV 2)) = some (9, 9) := by
  decide

/-- A6 -/
theorem test_or :
    stepped 0x8121 0 (withRegs [(1, 0x0F), (2, 0xF0), (0xF, 0x55)]) (fun t => (t.getV 1, t.getV 0xF)) =
      some (0xFF, 0x55) := by decide

/-- A7 -/
theorem test_and :
    stepped 0x8122 0 (withRegs [(1, 0x3C), (2, 0x0F), (0xF, 0x55)]) (fun t => (t.getV 1, t.getV 0xF)) =
      some (0x0C, 0x55) := by decide

/-- A8 -/
theorem test_xor :
    stepped 0x8123 0 (withRegs [(1, 0xFF), (2, 0x0F), (0xF, 0x55)]) (fun t => (t.getV 1, t.getV 0xF)) =
      some (0xF0, 0x55) := by decide

/-- A10 -/
theorem test_add_carry :
    stepped 0x8124 0 (withRegs [(1, 0xFF), (2, 0x01)]) (fun t => (t.getV 1, t.getV 0xF)) = some (0x00, 1) := by decide

/-- V1 -/
theorem test_add_into_vf : stepped 0x8F14 0 (withRegs [(0xF, 0xF0), (1, 0x20)]) (·.getV 0xF) = some 0x10 := by decide

/-- A13 -/
theorem test_sub_borrow :
    stepped 0x8125 0 (withRegs [(1, 0x01), (2, 0x02)]) (fun t => (t.getV 1, t.getV 0xF)) = some (0xFF, 0) := by decide

/-- V5 -/
theorem test_sub_vf_operand :
    stepped 0x80F5 0 (withRegs [(0, 5), (0xF, 3)]) (fun t => (t.getV 0, t.getV 0xF)) = some (2, 1) := by decide

/-- A16 -/
theorem test_shr_ignores_vy :
    stepped 0x8126 0 (withRegs [(1, 0x05), (2, 0xAA)]) (fun t => (t.getV 1, t.getV 2, t.getV 0xF)) =
      some (0x02, 0xAA, 1) := by decide

/-- V6 -/
theorem test_shr_into_vf : stepped 0x8F16 0 (withRegs [(0xF, 5)]) (·.getV 0xF) = some 2 := by decide

/-- A20 -/
theorem test_subn_equal :
    stepped 0x8127 0 (withRegs [(1, 0x04), (2, 0x04)]) (fun t => (t.getV 1, t.getV 0xF)) = some (0x00, 1) := by decide

/-- V8 -/
theorem test_subn_vf_operand :
    stepped 0x80F7 0 (withRegs [(0, 3), (0xF, 1)]) (fun t => (t.getV 0, t.getV 0xF)) = some (0xFE, 0) := by decide

/-- A21 -/
theorem test_shl_bit_out :
    stepped 0x812E 0 (withRegs [(1, 0x81), (2, 0xAA)]) (fun t => (t.getV 1, t.getV 2, t.getV 0xF)) =
      some (0x02, 0xAA, 1) := by decide

/-- V9 -/
theorem test_shl_into_vf : stepped 0x8F1E 0 (withRegs [(0xF, 0x81)]) (·.getV 0xF) = some 0x02 := by decide

/-- A23 -/
theorem test_rnd : stepped 0xC10F 0xA7 State.reset (·.getV 1) = some 0x07 := by decide

/-! ## Index register and memory (section 2.4) -/

/-- M1 -/
theorem test_ld_i : stepped 0xA123 0 State.reset (fun t => (t.i, t.pc)) = some (0x123, 0x202) := by decide

/-- M3, with VF of M2 -/
theorem test_add_i_past_memory :
    stepped 0xF11E 0 { withRegs [(1, 0x01), (0xF, 0x55)] with i := 0xFFF } (fun t => (t.i, t.getV 0xF)) =
      some (0x1000, 0x55) := by decide

/-- M4 -/
theorem test_add_i_wraps : stepped 0xF11E 0 { withRegs [(1, 0x02)] with i := 0xFFFF } (·.i) = some 0x0001 := by decide

/-- M6 -/
theorem test_ld_f_whole_byte : stepped 0xF129 0 (withRegs [(1, 0xFF)]) (·.i) = some 0x4FB := by decide

/-- M7 -/
theorem test_ld_b :
    stepped 0xF133 0 { withRegs [(1, 157)] with i := 0x300 } (·.mem.readBytes 0x300 4) = some [1, 5, 7, 0] := by decide

/-- M11 -/
theorem test_ld_b_past_memory :
    stepped 0xF133 0 { withRegs [(1, 7)] with i := 0xFFE }
      (fun t => (t.status, t.faultCause.code, t.pc, t.mem.read 0xFFE)) = some (.halted, 4, 0x200, 0) := by decide

/-- M12 -/
theorem test_st_regs :
    stepped 0xF255 0 { withRegs [(0, 0x11), (1, 0x22), (2, 0x33), (3, 0x44)] with i := 0x300 }
      (fun t => (t.mem.readBytes 0x300 4, t.i)) = some ([0x11, 0x22, 0x33, 0], 0x300) := by decide

/-- M14 -/
theorem test_st_regs_no_partial_store :
    stepped 0xF155 0 { withRegs [(0, 0xAB), (1, 0xCD)] with i := 0xFFF }
      (fun t => (t.status, t.faultCause.code, t.mem.read 0xFFF)) = some (.halted, 4, 0) := by decide

/-- M17 -/
theorem test_ld_regs_font :
    stepped 0xF265 0 { State.reset with i := 0x050 } (fun t => (t.getV 0, t.getV 1, t.getV 2, t.i)) =
      some (0xF0, 0x90, 0x90, 0x050) := by decide

/-- M18 -/
theorem test_ld_regs_past_memory :
    stepped 0xF165 0 { withRegs [(0, 7), (1, 8)] with i := 0xFFF }
      (fun t => (t.status, t.faultCause.code, t.getV 0, t.getV 1)) = some (.halted, 4, 7, 8) := by decide

/-! ## Display (section 2.5) -/

/-- G1 -/
theorem test_cls :
    stepped 0x00E0 0 { withRegs [(0xF, 0x55)] with fb := fbOf [0, 100, 2047] }
      (fun t => (litAmong [0, 100, 2047] t, t.getV 0xF, t.pc)) = some ([], 0x55, 0x202) := by decide

/-- G11 -/
theorem test_drw_wraps :
    stepped 0xD121 0 (withMem 0x300 [0x81] { withRegs [(1, 255), (2, 255)] with i := 0x300 })
      (fun t => (litAmong [2047, 1990, 2046, 63, 6] t, t.getV 0xF)) = some ([2047, 1990], 0) := by decide

/-- G8 -/
theorem test_drw_collision :
    stepped 0xD121 0 (withMem 0x300 [0xC0] { State.reset with i := 0x300, fb := fbOf [0] })
      (fun t => (litAmong [0, 1, 2] t, t.getV 0xF)) = some ([1], 1) := by decide

/-! ## Keypad and timers (sections 2.6 and 2.7) -/

/-- K1, K2 -/
theorem test_skp :
    stepped 0xE19E 0 { withRegs [(1, 5)] with key := State.reset.key.set 5 true } (·.pc) = some 0x204 ∧
      stepped 0xE19E 0 { withRegs [(1, 5)] with key := State.reset.key.set 6 true } (·.pc) = some 0x202 := by decide

/-- K5 -/
theorem test_skp_index_fault :
    stepped 0xE19E 0 (withRegs [(1, 0x10)]) (fun t => (t.status, t.faultCause.code, t.pc)) =
      some (.halted, 5, 0x200) := by decide

/-- K3, K4 -/
theorem test_sknp :
    stepped 0xE1A1 0 (withRegs [(1, 5)]) (·.pc) = some 0x204 ∧
      stepped 0xE1A1 0 { withRegs [(1, 5)] with key := State.reset.key.set 5 true } (·.pc) = some 0x202 := by decide

/-- K6 -/
theorem test_sknp_index_fault :
    stepped 0xE1A1 0 (withRegs [(1, 0xFF)]) (fun t => (t.status, t.faultCause.code, t.pc)) =
      some (.halted, 5, 0x200) := by decide

/-- K7 -/
theorem test_ld_vx_k_waits :
    stepped 0xF30A 0 (withRegs [(3, 9)]) (fun t => (t.pc, t.getV 3, t.status)) = some (0x200, 9, .awaitKey) := by decide

/-- K9 -/
theorem test_ld_vx_k_lowest :
    stepped 0xF30A 0 { State.reset with key := (State.reset.key.set 4 true).set 9 true, status := .awaitKey }
      (fun t => (t.pc, t.getV 3, t.status)) = some (0x202, 4, .running) := by decide

/-- T1 -/
theorem test_ld_vx_dt : stepped 0xF107 0 { State.reset with dt := 0x2A } (·.getV 1) = some 0x2A := by decide

/-- T2 -/
theorem test_ld_dt_vx : stepped 0xF115 0 (withRegs [(1, 0x3C)]) (fun t => (t.dt, t.st)) = some (0x3C, 0) := by decide

/-- T3 -/
theorem test_ld_st_vx :
    stepped 0xF118 0 (withRegs [(1, 0x05)]) (fun t => (t.st, t.dt, t.report)) = some (0x05, 0, none) := by decide

/-! ## Fetch, decode misses, the other commands (sections 2.7 to 2.10) -/

/-- F1 -/
theorem test_fetch_last : stepped 0x1200 0 { State.reset with pc := 0xFFE } (·.pc) = some 0x200 := by decide

/-- F2 -/
theorem test_fetch_fault :
    commanded (.step 0) { State.reset with pc := 0xFFF } (fun t => (t.status, t.faultCause.code, t.pc, t.opcode)) =
      some (.halted, 3, 0xFFF, 0) := by decide

/-- X12 -/
theorem test_decode_miss_step :
    stepped 0xF175 0 State.reset (fun t => (t.pc, t.report, t.status)) =
      some (0x202, some (.decodeMiss 0xF175), .running) := by decide

/-- T4 -/
theorem test_tick :
    commanded .tick { State.reset with dt := 0x3C, st := 0x05 } (fun t => (t.dt, t.st, t.report)) =
      some (0x3B, 0x04, none) := by decide

/-- T6 -/
theorem test_tick_edge :
    commanded .tick { State.reset with st := 1 } (fun t => (t.dt, t.st, t.report)) = some (0, 0, some .soundEdge) := by
  decide

/-- F7 -/
theorem test_key_halted :
    commanded (.key 3 true) haltedState (fun t => (t.key[3], t.status, t.faultCause)) =
      some (true, .halted, .stackUnderflow) := by decide

/-- L1 -/
theorem test_load :
    commanded (.load [0x60, 0x05]) State.reset (fun t => (t.mem, t.pc)) =
      some ([(0x200, 0x60), (0x201, 0x05)], 0x200) := by decide

/-- F8 -/
theorem test_reset_halted :
    commanded .reset { haltedState with pc := 0x300, i := 7 } (fun t => t) = some State.reset := by decide

/-- A placed opcode is the one a step runs: 0x6A42 from reset. -/
theorem test_with_fetch_word :
    (match step (State.reset.withFetchWord 16 0x6A42) with
     | .next t => some (t.getV 0xA, t.pc)
     | _ => none) = some (0x42, 0x202) := rfl

/-! ## Witnesses: the hypotheses of each obligation can be met -/

/-- The premises of the formats of Safety.lean: an opcode with the fixed bits under each mask. -/
theorem test_witness_formats :
    0x1ABC#16 &&& 0xF000#16 = 0x1000#16 ∧ 0x3A42#16 &&& 0xF000#16 = 0x3000#16 ∧ 0x8FE6#16 &&& 0xF00F#16 = 0x8006#16 ∧
      0xD123#16 &&& 0xF000#16 = 0xD000#16 ∧ 0xFB65#16 &&& 0xF0FF#16 = 0xF065#16 := by decide

/-- The state with an opcode placed at pc. -/
def placed (op : Word) : State := State.reset.placeOpcode op

theorem test_witness_EncodeOfDecodeIsTheOpcode : decode 0x8FE6 = some (.shr 0xF 0xE) := by decide

theorem test_witness_OpcodeMapRowsDecodeToTheirMnemonic :
    ⟨"SHL", 0x800E, 0xF00F⟩ ∈ opcodeTable ∧ OpcodeRow.matchesOp ⟨"SHL", 0x800E, 0xF00F⟩ 0x812E = true := by decide

theorem test_witness_StepRunsTheDecodedInstruction_pending :
    let s := { placed 0x6A42 with pending := [.step 7, .tick] }
    s.status ≠ .halted ∧ s.pc.toNat ≤ 0xFFE ∧ decode s.fetchOpcode = some (.ldImm 0xA 0x42) ∧
      s.pending = .step 7 :: [.tick] := by decide

theorem test_witness_StepRunsTheDecodedInstruction_none_pending :
    let s := State.placeOpcode { State.reset with pc := 0xFFE } 0x1200
    s.status ≠ .halted ∧ s.pc.toNat ≤ 0xFFE ∧ decode s.fetchOpcode = some (.jp 0x200) ∧ s.pending = [] := by decide

theorem test_witness_FetchIsBigEndianOrFaults_last :
    let s := { State.reset with pc := 0xFFE }
    s.status ≠ .halted ∧ s.pc.toNat ≤ 0xFFE := by decide

theorem test_witness_FetchIsBigEndianOrFaults_fault :
    let s := { State.reset with pc := 0xFFF }
    s.status ≠ .halted ∧ 0xFFE < s.pc.toNat := by decide

theorem test_witness_IgnoredYFieldAndDecodeMiss :
    let s := { State.reset with pc := 0xFFE }
    s.status ≠ .halted ∧ s.pc.toNat ≤ 0xFFE ∧ decode s.fetchOpcode = none := by decide

theorem test_witness_HaltedCoreIgnoresCommands : haltedState.status = .halted ∧ (∃ r, Command.step 5 = .step r) :=
  ⟨by decide, 5, rfl⟩

theorem test_witness_OnlyResetLeavesHalted_key :
    ∃ t, haltedState.status = .halted ∧ runCommand (.key 3 true) haltedState = .next t ∧
      Command.key 3 true ≠ .reset := ⟨_, by decide, rfl, by decide⟩

theorem test_witness_OnlyResetLeavesHalted_reset :
    ∃ t, haltedState.status = .halted ∧ runCommand .reset haltedState = .next t := ⟨_, by decide, rfl⟩

theorem test_witness_EveryCommandCompletes : State.reset.pending = [] := rfl

theorem test_witness_EveryStepKeepsInv :
    ∃ t, State.Inv { State.reset with pending := [.key 3 true] } ∧
      step { State.reset with pending := [.key 3 true] } = .next t :=
  ⟨_, ⟨rfl, by decide, fun _ => by decide, fun h => nomatch h⟩, rfl⟩

theorem test_witness_OnlyIndexInstructionsWriteI :
    ∃ t, exec (.ldI 0x123) State.reset = .next t ∧ t.i ≠ State.reset.i := ⟨_, rfl, by decide⟩

theorem test_witness_OnlyCallAndReturnTouchTheStack_call :
    ∃ t, exec (.call 0x300) State.reset = .next t ∧ t.stack ≠ State.reset.stack ∧ t.sp ≠ State.reset.sp :=
  ⟨_, rfl, by decide, by decide⟩

theorem test_witness_OnlyCallAndReturnTouchTheStack_ret :
    ∃ t, exec .ret { State.reset with sp := 16 } = .next t ∧ t.sp ≠ 16 := ⟨_, rfl, by decide⟩

theorem test_witness_OnlyStoresWriteMemory :
    ∃ t, exec (.stRegs 0) { withRegs [(0, 9)] with i := 0xFFF } = .next t ∧ t.mem ≠ State.reset.mem :=
  ⟨_, rfl, by decide⟩

theorem test_witness_OnlyStoresWriteMemory_commands :
    ∃ t u, runCommand (.key 15 true) State.reset = .next t ∧ runCommand .tick State.reset = .next u := ⟨_, _, rfl, rfl⟩

theorem test_witness_VfWriters_x_field :
    ∃ t, exec (.ldImm 0xF 7) State.reset = .next t ∧ t.getV regVF ≠ State.reset.getV regVF := ⟨_, rfl, by decide⟩

theorem test_witness_VfWriters_flag :
    ∃ t, (1 : RegIdx) ≠ regVF ∧ exec (.addReg 1 2) (withRegs [(1, 0xFF), (2, 1)]) = .next t ∧
      t.getV regVF ≠ State.reset.getV regVF := ⟨_, by decide, rfl, by decide⟩

theorem test_witness_VfWriters_drw :
    ∃ t, exec (.drw 1 2 1) { State.reset with i := 0xFFF } = .next t ∧ t.status ≠ .halted := ⟨_, rfl, by decide⟩

theorem test_witness_FrameBufferWriters_instr :
    ∃ t, exec .cls { State.reset with fb := fbOf [0] } = .next t ∧ t.fb ≠ fbOf [0] := ⟨_, rfl, by decide⟩

theorem test_witness_FrameBufferWriters_command :
    ∃ t u, runCommand .tick State.reset = .next t ∧ (∀ r, Command.tick ≠ .step r) ∧ Command.tick ≠ .reset ∧
      runCommand .reset { State.reset with fb := fbOf [2047] } = .next u :=
  ⟨_, _, rfl, nofun, nofun, rfl⟩

theorem test_witness_FrameBufferWriters_drw :
    ∃ t u, exec (.drw 1 2 1) State.reset = .next t ∧ exec (.drw 1 2 1) { State.reset with fb := fbOf [2047] } = .next u :=
  ⟨_, _, rfl, rfl⟩

theorem test_witness_KeypadWriters :
    ∃ t u, exec .cls State.reset = .next t ∧ runCommand .tick State.reset = .next u ∧ Command.tick ≠ .reset ∧
      (∀ k b, Command.tick ≠ .key k b) ∧ (0 : KeyIdx) ≠ 15 :=
  ⟨_, _, rfl, rfl, nofun, nofun, by decide⟩

theorem test_witness_KeypadWriters_other_instruction :
    (∀ x, Instr.cls ≠ .skp x) ∧ (∀ x, Instr.cls ≠ .sknp x) ∧ (∀ x, Instr.cls ≠ .ldVxK x) := ⟨nofun, nofun, nofun⟩

theorem test_witness_TimersReadAndWritten :
    ∃ t u, exec (.ldDtVx 1) (withRegs [(1, 5)]) = .next t ∧ t.dt ≠ 0 ∧
      exec (.ldStVx 1) (withRegs [(1, 5)]) = .next u ∧ u.st ≠ 0 :=
  ⟨_, _, rfl, by decide, rfl, by decide⟩

theorem test_witness_TimersReadAndWritten_tick :
    (∀ x, Instr.cls ≠ .ldStVx x) ∧ State.reset.status ≠ .halted := ⟨nofun, by decide⟩

theorem test_witness_RandReadOnlyByRnd : ∀ x nn, Instr.ldVxDt 1 ≠ .rnd x nn := nofun

theorem test_witness_FaultsInsideStep_fetch :
    ∃ t, stepCommand 0 { State.reset with pc := 0xFFF } = .next t ∧ t.status = .halted := ⟨_, rfl, by decide⟩

theorem test_witness_FaultsInsideStep_instruction :
    ∃ t, (placed 0x00EE).status ≠ .halted ∧ stepCommand 0 (placed 0x00EE) = .next t ∧ t.status = .halted :=
  ⟨_, by decide, rfl, by decide⟩

theorem test_witness_StatusAfterStep_await :
    ∃ t, (placed 0xF30A).status ≠ .halted ∧ stepCommand 0 (placed 0xF30A) = .next t ∧ t.status = .awaitKey :=
  ⟨_, by decide, rfl, by decide⟩

theorem test_witness_StatusAfterStep_running :
    ∃ t, (placed 0x6A42).status ≠ .halted ∧ stepCommand 0 (placed 0x6A42) = .next t ∧ t.status = .running :=
  ⟨_, by decide, rfl, by decide⟩

/-- C2: the self-jump 0x1200. -/
theorem test_witness_ParkedCoreStaysParked : (placed 0x1200).Parked := by decide

theorem test_witness_StoredOpcodeIsFetchedNext :
    let s := { State.reset with pc := 0xFFC, i := 0xFFE }
    1 ≤ (1 : RegIdx).val ∧ s.i = s.pc + 2 ∧ s.pc.toNat + 2 + (1 : RegIdx).val ≤ 0xFFF := by decide

theorem test_witness_LoadCopiesTheProgram_fits :
    State.reset.status ≠ .halted ∧ State.reset.launch = .fresh ∧ (List.replicate 3584 (1 : Byte)).length ≤ 3584 :=
  ⟨by decide, rfl, by rw [List.length_replicate]⟩

theorem test_witness_LoadCopiesTheProgram_too_long :
    State.reset.status ≠ .halted ∧ State.reset.launch = .fresh ∧ 3584 < (List.replicate 3585 (1 : Byte)).length :=
  ⟨by decide, rfl, by rw [List.length_replicate]; decide⟩

theorem test_witness_LoadCopiesTheProgram_refused_and_halted :
    ({ State.reset with launch := .stepped } : State).status ≠ .halted ∧
      ({ State.reset with launch := .stepped } : State).launch ≠ .fresh ∧ haltedState.status = .halted := by decide

theorem test_witness_TickCountsDown :
    let s := { State.reset with st := 1 }
    s.status ≠ .halted ∧ s.st = 1 ∧ State.reset.st ≠ 1 ∧ haltedState.status = .halted := by decide

theorem test_witness_NoInterrupts :
    ∃ t u v, runCommand .tick { State.reset with dt := 9 } = .next t ∧
      runCommand (.key 2 true) State.reset = .next u ∧ runCommand (.load [0x12, 0x00]) State.reset = .next v :=
  ⟨_, _, _, rfl, rfl, rfl⟩

theorem test_witness_CallPushesTheReturnAddress :
    ({ State.reset with sp := 15 } : State).sp.val < 16 ∧ ({ State.reset with sp := 16 } : State).sp.val = 16 := by decide

theorem test_witness_ReturnPopsIntoPc :
    0 < ({ State.reset with sp := 1 } : State).sp.val ∧ State.reset.sp.val = 0 := by decide

theorem test_witness_ReturnAfterCallResumes : ({ State.reset with sp := 15 } : State).sp.val < 16 := by decide

theorem test_witness_SkipsOnImmediate :
    (withRegs [(1, 7)]).getV 1 = (7 : Byte) ∧ (withRegs [(1, 7)]).getV 1 ≠ (8 : Byte) := by decide

theorem test_witness_SkipsOnRegisters :
    let s := withRegs [(1, 7), (2, 7)]
    s.getV 1 = s.getV 2 ∧ s.getV 1 ≠ s.getV 3 ∧ (0x5121#16).toNat / 4096 = 5 ∧ (0x5121#16).toNat % 16 ≠ 0 := by decide

theorem test_witness_AddSetsCarry :
    (1 : RegIdx) ≠ regVF ∧ (0xFF#8).toNat + (0x00#8).toNat = 255 ∧ 255 < (0xFF#8).toNat + (0x01#8).toNat := by decide

theorem test_witness_SubtractionsSetNoBorrow : (0 : RegIdx) ≠ regVF := by decide

theorem test_witness_ShiftsSetTheBitOut : (0xE : RegIdx) ≠ regVF := by decide

theorem test_witness_FlagAndResultAreExact :
    ∃ t u v w z, (1 : RegIdx) ≠ regVF ∧ exec (.addReg 1 2) (withRegs [(1, 0xFF), (2, 1)]) = .next t ∧
      exec (.sub 1 2) (withRegs [(1, 1), (2, 2)]) = .next u ∧ exec (.subn 1 2) (withRegs [(1, 2), (2, 2)]) = .next v ∧
      exec (.shr 1 2) (withRegs [(1, 1)]) = .next w ∧ exec (.shl 1 2) (withRegs [(1, 0x80)]) = .next z :=
  ⟨_, _, _, _, _, by decide, rfl, rfl, rfl, rfl, rfl⟩

theorem test_witness_RandomByteIsMasked :
    (placed 0xC10F).status ≠ .halted ∧ (placed 0xC10F).pc.toNat ≤ 0xFFE ∧
      decode (placed 0xC10F).fetchOpcode = some (.rnd 1 0x0F) := by decide

theorem test_witness_BcdDigitsAreStored :
    ({ State.reset with i := 0xFFD } : State).i.toNat + 2 ≤ 0xFFF ∧
      0xFFF < ({ State.reset with i := 0xFFE } : State).i.toNat + 2 := by decide

theorem test_witness_RegistersAreStored :
    ({ State.reset with i := 0xFF0 } : State).i.toNat + (0xF : RegIdx).val ≤ 0xFFF ∧
      0xFFF < ({ State.reset with i := 0xFF1 } : State).i.toNat + (0xF : RegIdx).val := by decide

theorem test_witness_RegistersAreLoaded :
    ({ State.reset with i := 0xFFF } : State).i.toNat + (0 : RegIdx).val ≤ 0xFFF ∧
      0xFFF < ({ State.reset with i := 0xFFF } : State).i.toNat + (1 : RegIdx).val ∧
      (0xE : RegIdx).val ≤ (0xF : RegIdx).val := by decide

theorem test_witness_StoredRegistersAreLoadedBack :
    ∃ t, ({ withRegs [(0, 9)] with i := 0xFFF } : State).i.toNat + (0 : RegIdx).val ≤ 0xFFF ∧
      exec (.stRegs 0) { withRegs [(0, 9)] with i := 0xFFF } = .next t := ⟨_, by decide, rfl⟩

/-- A sprite row 0x80 at the last byte of memory: in range, on a pixel that is 1, on a pixel that is not under it. -/
theorem test_witness_SpriteInvertsThePixelsItCovers :
    let s := withMem 0xFFF [0x80] { State.reset with i := 0xFFF, fb := fbOf [0] }
    (s.i.toNat + (1#4).toNat - 1 ≤ 0xFFF) ∧ SpriteCovers s 0 0 1#4 0 ∧ s.fb.pixel 0 = true ∧
      ¬ SpriteCovers s 0 0 1#4 64 :=
  ⟨by decide, ⟨0, 0, by decide, by decide, by decide, by decide⟩, by decide, fun ⟨row, col, hrow, hcol, _, hk⟩ => by
    have h1 : row = 0 := Nat.lt_one_iff.mp hrow
    subst h1
    have h2 : (0 + 0) % 32 * 64 + (0 + col) % 64 = 64 := hk
    omega⟩

/-- G7, and a framebuffer no lit pixel of which is under the sprite: VF becomes 0. -/
theorem test_witness_SpriteInvertsThePixelsItCovers_none :
    (0#4).toNat = 0 ∧ ¬ ∃ k : Fin 2048, SpriteCovers { State.reset with i := 0xFFFF } 1 2 0#4 k.val ∧
      State.reset.fb.pixel k.val = true :=
  ⟨rfl, fun ⟨_, ⟨_, _, hrow, _⟩, _⟩ => absurd hrow (Nat.not_lt_zero _)⟩

theorem test_witness_SpriteOutsideMemoryFaults :
    0 < (2#4).toNat ∧ 0xFFF < ({ State.reset with i := 0xFFF } : State).i.toNat + (2#4).toNat - 1 := by decide

theorem test_witness_SpriteDrawnTwiceRestores :
    ∃ t u, (1 : RegIdx) ≠ regVF ∧ (2 : RegIdx) ≠ regVF ∧ State.reset.fb = FrameBuffer.clear ∧
      exec (.drw 1 2 1) State.reset = .next t ∧ t.status ≠ .halted ∧
      exec (.drw 1 2 1) { t with pc := State.reset.pc } = .next u :=
  ⟨_, _, by decide, by decide, rfl, rfl, by decide, rfl⟩

theorem test_witness_KeySkips :
    let s := { withRegs [(1, 15), (2, 16)] with key := State.reset.key.set 15 true }
    (s.getV 1).toNat < 16 ∧ s.key[15] = true ∧ s.key[0] = false ∧ 15 < (s.getV 2).toNat := by decide

theorem test_witness_KeyWait :
    let s := { State.reset with key := (State.reset.key.set 4 true).set 9 true }
    s.key[4] = true ∧ (∀ j : KeyIdx, j.val < 4 → s.key[j] = false) ∧ ∀ k : KeyIdx, State.reset.key[k] = false := by decide

end Sys2Proof.Tests
end

section
/-! SUPPORT. What a STEP does and leaves unchanged around its execute stage, the decode miss, and the ignored Y field of
the shifts (30_encoding.md R77; 40_step_cycle.md R94 to R100). -/

namespace Sys2Proof.Machine

/-- A frame may be widened. -/
theorem OnlyChanges.mono {s t : State} {c d : Part → Prop} (h : OnlyChanges s t c) (hcd : ∀ p, c p → d p) :
    OnlyChanges s t d := fun p hp => h p (mt (hcd p) hp)

/-- A decode miss changes pc, status and the report only (R98, R100). -/
theorem State.decodeMiss_frame (s : State) (op : Word) :
    OnlyChanges s (s.decodeMiss op) (fun p => p = .pc ∨ p = .status ∨ p = .report) := fun p hp => by
  cases p with
  | pc => exact absurd (.inl rfl) hp
  | status => exact absurd (.inr (.inl rfl)) hp
  | report => exact absurd (.inr (.inr rfl)) hp
  | _ => rfl

/-- A STEP whose execute stage changes only `c` of the state it starts from changes besides only the opcode latch and
the model's own report, rand and launch. -/
theorem State.endStep_frame {s t : State} {c : Part → Prop} (rand : Byte) (op : Word)
    (h : OnlyChanges { s.beginStep rand with opcode := op } t c) :
    OnlyChanges s t.endStep (fun p => p = .opcode ∨ p = .report ∨ p = .rand ∨ p = .launch ∨ c p) := fun p hp => by
  have hsame := h p fun hc => hp (.inr (.inr (.inr (.inr hc))))
  cases p with
  | opcode => exact absurd (.inl rfl) hp
  | report => exact absurd (.inr (.inl rfl)) hp
  | rand => exact absurd (.inr (.inr (.inl rfl))) hp
  | launch => exact absurd (.inr (.inr (.inr (.inl rfl)))) hp
  | _ => exact hsame

/-- A STEP of a core that is not halted is its fetch, decode and execute stages on the begun state (R94). -/
theorem stepCommand_of_not_halted {s : State} (rand : Byte) (hrun : s.status ≠ .halted) :
    stepCommand rand s = endStepResult (fetchAndExecute (s.beginStep rand)) := if_neg hrun

/-- A STEP that fetches an opcode which does not decode is the decode miss of that opcode (R98). -/
theorem stepCommand_of_decode_none {s : State} (rand : Byte) (hrun : s.status ≠ .halted) (hpc : s.pc.toNat ≤ 0xFFE)
    (hdec : decode s.fetchOpcode = none) :
    stepCommand rand s =
      .next (State.decodeMiss { s.beginStep rand with opcode := s.fetchOpcode } s.fetchOpcode).endStep := by
  have hfetch : (s.beginStep rand).fetchOk = true := (State.fetchOk_iff (s.beginStep rand)).mpr hpc
  have hdec' : decode (s.beginStep rand).fetchOpcode = none := hdec
  rw [stepCommand_of_not_halted rand hrun]
  obtain ⟨hfault, -⟩ | ⟨-, -, hmiss⟩ | ⟨i, -, hi, -⟩ := fetchAndExecute_cases (s.beginStep rand)
  · exact absurd (hfetch.symm.trans hfault) (by decide)
  · exact congrArg endStepResult hmiss
  · exact absurd (hdec'.symm.trans hi) (by simp)

/-- The Y field of 8XY6 has no effect (R77). -/
theorem exec_shr_ignores_y (x y y' : RegIdx) (s : State) : exec (.shr x y) s = exec (.shr x y') s := rfl

/-- The Y field of 8XYE has no effect (R77). -/
theorem exec_shl_ignores_y (x y y' : RegIdx) (s : State) : exec (.shl x y) s = exec (.shl x y') s := rfl

/-- Settles O9: the shifts do not read Y, and a STEP on a decode miss is the decode miss between the begin and the end
of the STEP, whose frames compose. -/
theorem ignoredYFieldAndDecodeMiss : Obligations.IgnoredYFieldAndDecodeMiss := by
  refine ⟨fun x y y' s => ⟨exec_shr_ignores_y x y y' s, exec_shl_ignores_y x y y' s⟩, fun s rand hrun hpc hdec => ?_⟩
  refine ⟨_, stepCommand_of_decode_none rand hrun hpc hdec, by simp, by simp, by simp, ?_⟩
  refine (State.endStep_frame rand s.fetchOpcode (State.decodeMiss_frame _ s.fetchOpcode)).mono fun p hp => ?_
  tauto

end Sys2Proof.Machine
end

section
/-! SUPPORT. Instructions that write pc and status only: the jump and the skips on an immediate, from their opcodes to
their effect (30_encoding.md R72 to R75; 41_control_flow.md R110, R114, R115). -/

namespace Sys2Proof.Machine

/-! ## Decoding by family (R74) -/

/-- Family 0x1 is the jump (R75). -/
theorem decode_of_family_jp {op : Word} (h : fieldFamily op = 0x1#4) : decode op = some (.jp (fieldNNN op)) := by
  simp only [decode, h]

/-- Family 0x3 is the skip on an equal immediate (R75). -/
theorem decode_of_family_seImm {op : Word} (h : fieldFamily op = 0x3#4) :
    decode op = some (.seImm (fieldX op) (fieldNN op)) := by
  simp only [decode, h]

/-- Family 0x4 is the skip on an unequal immediate (R75). -/
theorem decode_of_family_sneImm {op : Word} (h : fieldFamily op = 0x4#4) :
    decode op = some (.sneImm (fieldX op) (fieldNN op)) := by
  simp only [decode, h]

theorem decodesA_jp : DecodesA 0x1000 .jp := fun _ h => decode_of_family_jp (family_of_mask h)

theorem decodesXI_seImm : DecodesXI 0x3000 .seImm := fun _ h => decode_of_family_seImm (family_of_mask h)

theorem decodesXI_sneImm : DecodesXI 0x4000 .sneImm := fun _ h => decode_of_family_sneImm (family_of_mask h)

/-! ## Effects -/

/-- Widening to 16 bits keeps the number (R73). -/
theorem zext16_toNat {w : Nat} (hw : w ≤ 16) (b : BitVec w) : (zext16 b).toNat = b.toNat :=
  BitVec.toNat_setWidth_of_le hw

/-- Completing with no other change changes pc and status only (R97, R100). -/
theorem State.retire_frame_pc_status (s : State) (w : Word) :
    OnlyChanges s (s.retire w) (fun p => p = .pc ∨ p = .status) :=
  (State.retire_frame w (OnlyChanges.refl s fun _ => False)).mono fun _ hp => by simpa using hp

theorem exec_jp (nnn : Addr12) (s : State) : exec (.jp nnn) s = .next (s.retire (zext16 nnn)) := rfl

theorem exec_seImm (x : RegIdx) (nn : Byte) (s : State) :
    exec (.seImm x nn) s = .next (s.skipIf (s.getV x == nn)) := rfl

theorem exec_sneImm (x : RegIdx) (nn : Byte) (s : State) :
    exec (.sneImm x nn) s = .next (s.skipIf (s.getV x != nn)) := rfl

/-- An instruction that answers a skip completes with pc + 4 where the skip is taken and pc + 2 where it is not, and
writes nothing but pc and status (R97 mode (b)). -/
theorem exec_skip_effect {i : Instr} {s : State} {taken : Bool} {P Q : Prop}
    (hexec : exec i s = .next (s.skipIf taken)) (htaken : P → taken = true) (hnot : Q → taken = false) :
    ∃ t, exec i s = .next t ∧ t.status = .running ∧ OnlyChanges s t (fun p => p = .pc ∨ p = .status) ∧
      (P → t.pc = s.pc + 4) ∧ (Q → t.pc = s.pc + 2) := by
  refine ⟨s.skipIf taken, hexec, State.skipIf_status s taken, State.retire_frame_pc_status s _,
    fun hP => ?_, fun hQ => ?_⟩
  · simp [htaken hP]
  · simp [hnot hQ]

/-- Settles O32: family 0x1 decodes to the jump, which completes at the widened NNN. -/
theorem jumpSetsPc : Obligations.JumpSetsPc :=
  ⟨decodesA_jp, fun nnn s => ⟨s.retire (zext16 nnn), exec_jp nnn s, zext16_toNat (by decide) nnn,
    State.retire_status s _, State.retire_frame_pc_status s _⟩⟩

/-- Settles O37: both instructions answer a skip, taken when the comparison of VX and NN says so. -/
theorem skipsOnImmediate : Obligations.SkipsOnImmediate := by
  refine ⟨decodesXI_seImm, decodesXI_sneImm, fun x nn s => ⟨?_, ?_⟩⟩
  · exact exec_skip_effect (exec_seImm x nn s) beq_iff_eq.mpr beq_eq_false_iff_ne.mpr
  · exact exec_skip_effect (exec_sneImm x nn s) bne_iff_ne.mpr bne_eq_false_iff_eq.mpr

end Sys2Proof.Machine
end

section
/-! SUPPORT. Instructions that write one general register and go on at pc + 2: the loads, the addition of an immediate,
the logic operations and the random byte, from their opcodes to their effect (30_encoding.md R72 to R75; 42_alu.md R131
to R136, R142). -/

namespace Sys2Proof.Machine

/-! ## Decoding of families 0x6, 0x7, 0x8 and 0xC (R74) -/

/-- Family 0x6 is the load of an immediate (R75). -/
theorem decode_of_family_ldImm {op : Word} (h : fieldFamily op = 0x6#4) :
    decode op = some (.ldImm (fieldX op) (fieldNN op)) := by
  simp only [decode, h]

/-- Family 0x7 is the addition of an immediate (R75). -/
theorem decode_of_family_addImm {op : Word} (h : fieldFamily op = 0x7#4) :
    decode op = some (.addImm (fieldX op) (fieldNN op)) := by
  simp only [decode, h]

/-- Family 0xC is the random byte (R75). -/
theorem decode_of_family_rnd {op : Word} (h : fieldFamily op = 0xC#4) :
    decode op = some (.rnd (fieldX op) (fieldNN op)) := by
  simp only [decode, h]

/-- Family 0x8 has a decoder of its own (R74). -/
theorem decode_of_family_8 {op : Word} (h : fieldFamily op = 0x8#4) : decode op = decodeFamily8 op := by
  simp only [decode, h]

theorem decodesXI_ldImm : DecodesXI 0x6000 .ldImm := fun _ h => decode_of_family_ldImm (family_of_mask h)

theorem decodesXI_addImm : DecodesXI 0x7000 .addImm := fun _ h => decode_of_family_addImm (family_of_mask h)

theorem decodesXI_rnd : DecodesXI 0xC000 .rnd := fun _ h => decode_of_family_rnd (family_of_mask h)

/-- In family 0x8 the fixed bits of format XY choose the instruction by N alone (R74). -/
theorem decodesXY_of_family_8 {fixed : Word} {c : RegIdx → RegIdx → Instr} (hfamily : fieldFamily fixed = 0x8#4)
    (hsub : ∀ op, fieldN op = fieldN fixed → decodeFamily8 op = some (c (fieldX op) (fieldY op))) :
    DecodesXY fixed c := fun op h => by
  obtain ⟨hf, hn⟩ := family_sub_of_maskXY h
  exact (decode_of_family_8 (hf.trans hfamily)).trans (hsub op hn)

theorem decodesXY_ldReg : DecodesXY 0x8000 .ldReg :=
  decodesXY_of_family_8 (by decide) fun op (h : fieldN op = 0x0#4) => by simp only [decodeFamily8, h]

theorem decodesXY_orReg : DecodesXY 0x8001 .orReg :=
  decodesXY_of_family_8 (by decide) fun op (h : fieldN op = 0x1#4) => by simp only [decodeFamily8, h]

theorem decodesXY_andReg : DecodesXY 0x8002 .andReg :=
  decodesXY_of_family_8 (by decide) fun op (h : fieldN op = 0x2#4) => by simp only [decodeFamily8, h]

theorem decodesXY_xorReg : DecodesXY 0x8003 .xorReg :=
  decodesXY_of_family_8 (by decide) fun op (h : fieldN op = 0x3#4) => by simp only [decodeFamily8, h]

/-! ## Effects -/

theorem exec_ldImm (x : RegIdx) (nn : Byte) (s : State) : exec (.ldImm x nn) s = .next (s.setV x nn).advance := rfl

theorem exec_addImm (x : RegIdx) (nn : Byte) (s : State) :
    exec (.addImm x nn) s = .next (s.setV x (s.getV x + nn)).advance := rfl

theorem exec_ldReg (x y : RegIdx) (s : State) : exec (.ldReg x y) s = .next (s.setV x (s.getV y)).advance := rfl

theorem exec_orReg (x y : RegIdx) (s : State) :
    exec (.orReg x y) s = .next (s.setV x (s.getV x ||| s.getV y)).advance := rfl

theorem exec_andReg (x y : RegIdx) (s : State) :
    exec (.andReg x y) s = .next (s.setV x (s.getV x &&& s.getV y)).advance := rfl

theorem exec_xorReg (x y : RegIdx) (s : State) :
    exec (.xorReg x y) s = .next (s.setV x (s.getV x ^^^ s.getV y)).advance := rfl

theorem exec_rnd (x : RegIdx) (nn : Byte) (s : State) :
    exec (.rnd x nn) s = .next (s.setV x (s.rand &&& nn)).advance := rfl

/-- One register write and pc + 2 change that register, pc and status only (R97 mode (a), R100). -/
theorem State.setV_advance_frame (s : State) (x : RegIdx) (b : Byte) :
    OnlyChanges s (s.setV x b).advance (fun p => p = .reg x ∨ p = .pc ∨ p = .status) :=
  (State.retire_frame _ (State.setV_frame s x b)).mono fun _ hp => by tauto

/-- An instruction that answers one register write completes at pc + 2 with the byte in its register, of which `P` holds
when it holds of the byte, and changes nothing else but status. -/
theorem exec_setV_effect {i : Instr} {s : State} {x : RegIdx} {b : Byte} (P : Byte → Prop)
    (hexec : exec i s = .next (s.setV x b).advance) (hb : P b) :
    ∃ t, exec i s = .next t ∧ P (t.getV x) ∧ t.pc = s.pc + 2 ∧ t.status = .running ∧
      OnlyChanges s t (fun p => p = .reg x ∨ p = .pc ∨ p = .status) :=
  ⟨_, hexec, by simpa using hb, by simp, by simp, State.setV_advance_frame s x b⟩

/-- A STEP that fetches an opcode which decodes is the instruction, from the begun state with the opcode latched, and the
end of the STEP (R94 to R97). -/
theorem stepCommand_of_decode_some {s : State} {i : Instr} (rand : Byte) (hrun : s.status ≠ .halted)
    (hpc : s.pc.toNat ≤ 0xFFE) (hdec : decode s.fetchOpcode = some i) :
    stepCommand rand s = endStepResult (exec i { s.beginStep rand with opcode := s.fetchOpcode }) := by
  have hfetch : (s.beginStep rand).fetchOk = true := (State.fetchOk_iff (s.beginStep rand)).mpr hpc
  have hdec' : decode (s.beginStep rand).fetchOpcode = some i := hdec
  rw [stepCommand_of_not_halted rand hrun]
  obtain ⟨hfault, -⟩ | ⟨-, hmiss, -⟩ | ⟨j, -, hj, hexec⟩ := fetchAndExecute_cases (s.beginStep rand)
  · exact absurd (hfetch.symm.trans hfault) (by decide)
  · exact absurd (hdec'.symm.trans hmiss) (by simp)
  · obtain rfl : i = j := Option.some.inj (hdec'.symm.trans hj)
    exact congrArg endStepResult hexec

/-- Settles O39: each of the three answers one register write; the sum of bytes is the sum of numbers modulo 256. -/
theorem loadsAndAddImmediate : Obligations.LoadsAndAddImmediate := by
  refine ⟨decodesXI_ldImm, decodesXI_addImm, decodesXY_ldReg, fun x y nn s => ⟨?_, ?_, ?_⟩⟩
  · exact exec_setV_effect (· = nn) (exec_ldImm x nn s) rfl
  · exact exec_setV_effect (fun v => v.toNat = ((s.getV x).toNat + nn.toNat) % 256) (exec_addImm x nn s)
      (BitVec.toNat_add _ _)
  · exact exec_setV_effect (· = s.getV y) (exec_ldReg x y s) rfl

/-- Settles O40: each of the three answers one register write, of the operation that acts bit by bit. -/
theorem logicWritesVxOnly : Obligations.LogicWritesVxOnly := by
  refine ⟨decodesXY_orReg, decodesXY_andReg, decodesXY_xorReg, fun x y s => ⟨?_, ?_, ?_⟩⟩
  · exact exec_setV_effect (fun v => ∀ j, v.getLsbD j = ((s.getV x).getLsbD j || (s.getV y).getLsbD j))
      (exec_orReg x y s) fun _ => BitVec.getLsbD_or
  · exact exec_setV_effect (fun v => ∀ j, v.getLsbD j = ((s.getV x).getLsbD j && (s.getV y).getLsbD j))
      (exec_andReg x y s) fun _ => BitVec.getLsbD_and
  · exact exec_setV_effect (fun v => ∀ j, v.getLsbD j = ((s.getV x).getLsbD j ^^ (s.getV y).getLsbD j))
      (exec_xorReg x y s) fun _ => BitVec.getLsbD_xor

/-- Settles O45: the instruction answers one register write, and a STEP runs it on the state that holds its byte. -/
theorem randomByteIsMasked : Obligations.RandomByteIsMasked := by
  refine ⟨decodesXI_rnd, fun x nn s => ?_, fun x nn rand s hrun hpc hdec => ?_⟩
  · exact exec_setV_effect (· = s.rand &&& nn) (exec_rnd x nn s) rfl
  · have hstep := stepCommand_of_decode_some rand hrun hpc hdec
    rw [exec_rnd] at hstep
    exact ⟨_, hstep, by simp⟩

end Sys2Proof.Machine
end

section
/-! SUPPORT. Instructions that write the index register and go on at pc + 2: the load of a 12-bit address, from its
opcodes to its effect (30_encoding.md R72 to R75; 43_index_memory.md R150). -/

namespace Sys2Proof.Machine

/-! ## Decoding of family 0xA (R74) -/

/-- Family 0xA is the load of the index register (R75). -/
theorem decode_of_family_ldI {op : Word} (h : fieldFamily op = 0xA#4) : decode op = some (.ldI (fieldNNN op)) := by
  simp only [decode, h]

theorem decodesA_ldI : DecodesA 0xA000 .ldI := fun _ h => decode_of_family_ldI (family_of_mask h)

/-! ## Effects -/

/-- A write of the index register changes that register only. -/
theorem State.setIndex_frame (s : State) (w : Word) : OnlyChanges s { s with i := w } (fun p => p = .index) :=
  fun p hp => by
    cases p with
    | index => exact absurd rfl hp
    | _ => rfl

/-- One write of the index register and pc + 2 change that register, pc and status only (R97 mode (a), R100). -/
theorem State.setIndex_advance_frame (s : State) (w : Word) :
    OnlyChanges s { s with i := w }.advance (fun p => p = .index ∨ p = .pc ∨ p = .status) :=
  (State.retire_frame _ (State.setIndex_frame s w)).mono fun _ hp => by tauto

theorem exec_ldI (nnn : Addr12) (s : State) : exec (.ldI nnn) s = .next { s with i := zext16 nnn }.advance := rfl

/-- An instruction that answers one write of the index register completes at pc + 2 with that word in it and changes
nothing else but status. -/
theorem exec_setIndex_effect {i : Instr} {s : State} {w : Word} {n : Nat}
    (hexec : exec i s = .next { s with i := w }.advance) (hw : w.toNat = n) :
    ∃ t, exec i s = .next t ∧ t.i.toNat = n ∧ t.pc = s.pc + 2 ∧ t.status = .running ∧
      OnlyChanges s t (fun p => p = .index ∨ p = .pc ∨ p = .status) :=
  ⟨_, hexec, hw, State.advance_pc _, State.advance_status _, State.setIndex_advance_frame s w⟩

/-- Settles O46: family 0xA decodes to the load, which answers one write of the index register, of the widened NNN. -/
theorem loadIndexSetsI : Obligations.LoadIndexSetsI :=
  ⟨decodesA_ldI, fun nnn s => exec_setIndex_effect (exec_ldI nnn s) (zext16_toNat (by decide) nnn)⟩

end Sys2Proof.Machine
end

section
/-! SUPPORT. The framebuffer: who writes it, which pixels a sprite inverts, and that no other instruction reads it
(44_display.md R170, R171, R173). -/

namespace Sys2Proof.Machine

/-! ## Clearing the screen (R170) -/

/-- A write of the framebuffer changes pixels only. -/
theorem State.setFb_frame (s : State) (f : FrameBuffer) :
    OnlyChanges s { s with fb := f } (fun p => ∃ k, p = .pixel k) := fun p hp => by
  cases p with
  | pixel k => exact absurd ⟨k, rfl⟩ hp
  | _ => rfl

theorem exec_cls (s : State) : exec .cls s = .next { s with fb := FrameBuffer.clear }.advance := rfl

theorem decodesZ_cls : DecodesZ 0x00E0 .cls := rfl

/-- Settles O52: the instruction answers one write of the framebuffer, of the clear one, every pixel of which is 0. -/
theorem screenIsCleared : Obligations.ScreenIsCleared :=
  ⟨decodesZ_cls, fun s => ⟨_, exec_cls s, fun k => FrameBuffer.pixel_clear k.val, State.advance_pc _,
    State.advance_status _, State.retire_frame _ (State.setFb_frame s FrameBuffer.clear)⟩⟩

/-! ## The pixels a sprite inverts (R171) -/

/-- What DXYN draws at a state: the sprite at I, at column VX and row VY, on the framebuffer (R171). -/
def State.drawn (s : State) (x y : RegIdx) (n : BitVec 4) : Canvas :=
  drawSprite s.fb (s.getV x).toNat (s.getV y).toNat (s.mem.readBytes (s.effAddr 0) n.toNat)

theorem exec_drw_of_inRange {x y : RegIdx} {n : BitVec 4} {s : State} (h : inRange (s.effAddr 0) n.toNat = true) :
    exec (.drw x y n) s =
      .next ({ s with fb := (s.drawn x y n).fb }.setV regVF (flagByte (s.drawn x y n).hit)).advance := if_pos h

theorem exec_drw_of_not_inRange {x y : RegIdx} {n : BitVec 4} {s : State}
    (h : ¬ inRange (s.effAddr 0) n.toNat = true) : exec (.drw x y n) s = .next (s.raise .memFault) := if_neg h

/-- The sprite bits of R171 read from the list of the sprite's bytes are those read from memory. -/
theorem spriteCovers_iff (s : State) (x y : RegIdx) (n : BitVec 4) (k : Nat) :
    SpriteCovers s x y n k ↔ ∃ r q, r < (s.mem.readBytes (s.effAddr 0) n.toNat).length ∧ q < 8 ∧
      spriteBit ((s.mem.readBytes (s.effAddr 0) n.toNat).getD r 0) q = true ∧
      pixelIndex ((s.getV x).toNat + q) ((s.getV y).toNat + r) = k := by
  rw [Memory.readBytes_length]
  refine exists_congr fun r => exists_congr fun q => and_congr_right fun hr => and_congr_right fun _ => ?_
  rw [Memory.readBytes_getD s.mem 0 n.toNat _ r hr]
  rfl

open Classical in
/-- Drawing inverts exactly the pixels the sprite covers. -/
theorem State.drawn_pixel (s : State) (x y : RegIdx) (n : BitVec 4) (k : Nat) :
    (s.drawn x y n).fb.pixel k = (s.fb.pixel k ^^ decide (SpriteCovers s x y n k)) := by
  have hlength : (s.mem.readBytes (s.effAddr 0) n.toNat).length ≤ 31 := by
    have := n.isLt
    rw [Memory.readBytes_length]
    omega
  rw [decide_eq_decide.mpr (spriteCovers_iff s x y n k)]
  exact (Canvas.drawRows_spec (s.getV x).toNat _ (s.getV y).toNat ⟨s.fb, false⟩ hlength).1 k

open Classical in
/-- DXYN inverts exactly the pixels the sprite covers, and none when the sprite does not lie in memory. -/
theorem exec_drw_inverts {x y : RegIdx} {n : BitVec 4} {s t : State} (h : exec (.drw x y n) s = .next t) (k : Nat) :
    (t.fb.pixel k ^^ s.fb.pixel k) =
      decide (inRange (s.effAddr 0) n.toNat = true ∧ SpriteCovers s x y n k) := by
  by_cases hr : inRange (s.effAddr 0) n.toNat = true
  · rw [exec_drw_of_inRange hr] at h
    cases h
    have hdrawn : ((s.drawn x y n).fb.pixel k ^^ s.fb.pixel k) = decide (SpriteCovers s x y n k) := by
      rw [State.drawn_pixel, Bool.xor_comm, ← Bool.xor_assoc, Bool.xor_self, Bool.false_xor]
    simpa [hr] using hdrawn
  · rw [exec_drw_of_not_inRange hr] at h
    cases h
    simp [hr]

/-! ## The other instructions neither read nor write the framebuffer (R173) -/

/-- The state with its framebuffer replaced. -/
def State.withFb (s : State) (f : FrameBuffer) : State := { s with fb := f }

@[simp] theorem State.withFb_fb (s : State) (f : FrameBuffer) : (s.withFb f).fb = f := rfl

/-- The push neither reads nor writes the framebuffer. -/
theorem State.push_withFb (s : State) (f : FrameBuffer) (w : Word) :
    (s.withFb f).push w = (s.push w).map (·.withFb f) := by
  symm
  exact apply_dite (Option.map fun t : State => t.withFb f) _ _ _

/-- The pop neither reads nor writes the framebuffer. -/
theorem State.pop_withFb (s : State) (f : FrameBuffer) :
    (s.withFb f).pop = s.pop.map (Prod.map id (·.withFb f)) := by
  symm
  exact apply_dite (Option.map (Prod.map id fun t : State => t.withFb f)) _ _ _

@[simp] theorem State.pcAfter_withFb (s : State) (f : FrameBuffer) (n : Nat) :
    (s.withFb f).pcAfter n = s.pcAfter n := rfl

@[simp] theorem State.getV_withFb (s : State) (f : FrameBuffer) (r : RegIdx) : (s.withFb f).getV r = s.getV r := rfl

@[simp] theorem State.key_withFb (s : State) (f : FrameBuffer) : (s.withFb f).key = s.key := rfl

/-- Every instruction but 00E0 and DXYN answers the same whatever the framebuffer holds, and leaves it alone. -/
theorem exec_withFb {i : Instr} (hcls : i ≠ .cls) (hdrw : ∀ x y n, i ≠ .drw x y n) (s : State) (f : FrameBuffer) :
    exec i (s.withFb f) = mapNext (·.withFb f) (exec i s) := by
  cases i with
  | cls => exact absurd rfl hcls
  | drw x y n => exact absurd rfl (hdrw x y n)
  | call nnn =>
    simp only [exec, execCall, State.pcAfter_withFb, State.push_withFb]
    cases s.push (s.pcAfter 1) <;> rfl
  | ret =>
    simp only [exec, execRet, State.pop_withFb]
    cases s.pop <;> rfl
  | skp x =>
    simp only [exec, execSkp, State.getV_withFb]
    cases keyIndex (s.getV x) <;> rfl
  | sknp x =>
    simp only [exec, execSknp, State.getV_withFb]
    cases keyIndex (s.getV x) <;> rfl
  | ldVxK x =>
    simp only [exec, execLdVxK, State.key_withFb]
    cases firstPressed s.key <;> rfl
  | ldB x =>
    symm
    exact apply_ite (mapNext (·.withFb f)) _ _ _
  | stRegs x =>
    symm
    exact apply_ite (mapNext (·.withFb f)) _ _ _
  | ldRegs x =>
    symm
    exact apply_ite (mapNext (·.withFb f)) _ _ _
  | _ => rfl

/-- An instruction that changes the framebuffer is 00E0 or DXYN. -/
theorem cls_or_drw_of_fb_ne {i : Instr} {s t : State} (h : exec i s = .next t) (hfb : t.fb ≠ s.fb) :
    i = .cls ∨ ∃ x y n, i = .drw x y n := by
  by_contra hi
  obtain ⟨hcls, hdrw⟩ := not_or.mp hi
  have hsame : exec i s = mapNext (·.withFb s.fb) (exec i s) :=
    exec_withFb hcls (fun x y n e => hdrw ⟨x, y, n, e⟩) s s.fb
  rw [h] at hsame
  have ht : t = t.withFb s.fb := Host.Outcome.next.inj hsame
  exact hfb ((congrArg State.fb ht).trans (State.withFb_fb t s.fb))

/-! ## Commands (R173) -/

/-- LOAD, KEY and TICK leave the framebuffer alone. -/
theorem runCommand_fb {c : Command} {s t : State} (h : runCommand c s = .next t) (hstep : ∀ r, c ≠ .step r)
    (hreset : c ≠ .reset) : t.fb = s.fb := by
  cases c with
  | reset => exact absurd rfl hreset
  | step r => exact absurd rfl (hstep r)
  | key k pressed => cases h; rfl
  | tick =>
    simp only [runCommand, tickCommand] at h
    split at h <;> cases h <;> rfl
  | load bytes =>
    change loadCommand bytes s = .next t at h
    obtain ⟨-, he⟩ | ⟨-, -, he⟩ | ⟨-, -, -, he⟩ | ⟨-, -, -, he⟩ := loadCommand_cases bytes s <;>
      rw [he] at h <;> cases h <;> rfl

/-- RESET clears the framebuffer. -/
theorem resetCommand_fb {s t : State} (h : runCommand .reset s = .next t) : t.fb = FrameBuffer.clear := by
  cases h; rfl

/-- Settles O19: every instruction but 00E0 and DXYN is independent of the framebuffer, and DXYN inverts the pixels its
sprite covers, which the framebuffer has no part in. -/
theorem frameBufferWriters : Obligations.FrameBufferWriters := by
  refine ⟨fun _ _ _ => cls_or_drw_of_fb_ne, fun _ _ _ => runCommand_fb, fun s t h k => ?_,
    fun column row => ⟨rfl, pixelIndex_lt column row⟩, fun x s f => ⟨?_, ?_⟩, fun x y n s t u f ht hu k => ?_⟩
  · rw [resetCommand_fb h, FrameBuffer.pixel_clear]
  · exact exec_withFb (by simp) (by simp) s f
  · exact exec_withFb (by simp) (by simp) s f
  · exact (exec_drw_inverts hu k).trans (exec_drw_inverts ht k).symm

end Sys2Proof.Machine
end

section
/-! SUPPORT. The wait for a key: the lowest pressed key into a register, or the wait with nothing else written, from its
opcodes to its effect (30_encoding.md R72 to R75; 45_keypad.md R182). -/

namespace Sys2Proof.Machine

/-! ## Decoding of family 0xF (R74) -/

/-- Family 0xF has a decoder of its own (R74). -/
theorem decode_of_family_F {op : Word} (h : fieldFamily op = 0xF#4) : decode op = decodeFamilyF op := by
  simp only [decode, h]

/-- In family 0xF the fixed bits of format XS choose the instruction by op[7:0] alone (R74). -/
theorem decodesXS_of_family_F {fixed : Word} {c : RegIdx → Instr} (hfamily : fieldFamily fixed = 0xF#4)
    (hsub : ∀ op, fieldNN op = fieldNN fixed → decodeFamilyF op = some (c (fieldX op))) : DecodesXS fixed c :=
  fun op h => by
    obtain ⟨hf, hnn⟩ := family_sub_of_maskXS h
    exact (decode_of_family_F (hf.trans hfamily)).trans (hsub op hnn)

theorem decodesXS_ldVxK : DecodesXS 0xF00A .ldVxK :=
  decodesXS_of_family_F (by decide) fun op (h : fieldNN op = 0x0A#8) => by simp only [decodeFamilyF, h]

/-! ## Effects -/

/-- The key that is found is the pressed one below which none is pressed (R182). -/
theorem firstPressed_eq_some_iff {keys : Vector Bool Config.nkeys} {k : KeyIdx} :
    firstPressed keys = some k ↔ keys[k] = true ∧ ∀ j : KeyIdx, j < k → keys[j] = false := by
  rw [firstPressed, ← Fin.find?_eq_find?_finRange, Fin.find?_eq_some_iff]

theorem exec_ldVxK_of_some {s : State} {k : KeyIdx} (x : RegIdx) (h : firstPressed s.key = some k) :
    exec (.ldVxK x) s = .next (s.setV x (BitVec.ofNat 8 k.val)).advance := by
  simp only [exec, execLdVxK, h]

theorem exec_ldVxK_of_none {s : State} (x : RegIdx) (h : firstPressed s.key = none) :
    exec (.ldVxK x) s = .next s.await := by
  simp only [exec, execLdVxK, h]

/-- The index of a key fits in a byte. -/
theorem toNat_ofNat_keyIdx (k : KeyIdx) : (BitVec.ofNat 8 k.val).toNat = k.val :=
  (BitVec.toNat_ofNat _ _).trans (Nat.mod_eq_of_lt (k.isLt.trans (by decide)))

/-- Waiting for a key changes status only (R97 mode (d), R100). -/
theorem State.await_frame (s : State) : OnlyChanges s s.await (fun p => p = .status) := fun p hp => by
  cases p with
  | status => exact absurd rfl hp
  | _ => rfl

/-- Settles O57: where the keypad has a lowest pressed key the instruction answers one register write, of its index, and
where no key is pressed it answers the wait. -/
theorem keyWait : Obligations.KeyWait := by
  refine ⟨decodesXS_ldVxK, fun x s => ⟨fun k hpressed hlowest => ?_, fun hnone => ?_⟩⟩
  · have hfirst : firstPressed s.key = some k := firstPressed_eq_some_iff.mpr ⟨hpressed, hlowest⟩
    exact exec_setV_effect (fun v => v.toNat = k.val) (exec_ldVxK_of_some x hfirst) (toNat_ofNat_keyIdx k)
  · have hfirst : firstPressed s.key = none := (firstPressed_none s.key).mpr hnone
    exact ⟨s.await, exec_ldVxK_of_none x hfirst, State.await_status s, State.await_frame s⟩

end Sys2Proof.Machine
end

section
/-! SUPPORT. The timer instructions: the delay timer into a register, and a register into either timer, from their
opcodes to their effect (30_encoding.md R72 to R75; 46_timers.md R190 to R192). -/

namespace Sys2Proof.Machine

/-! ## Decoding (R74) -/

theorem decodesXS_ldVxDt : DecodesXS 0xF007 .ldVxDt :=
  decodesXS_of_family_F (by decide) fun op (h : fieldNN op = 0x07#8) => by simp only [decodeFamilyF, h]

theorem decodesXS_ldDtVx : DecodesXS 0xF015 .ldDtVx :=
  decodesXS_of_family_F (by decide) fun op (h : fieldNN op = 0x15#8) => by simp only [decodeFamilyF, h]

theorem decodesXS_ldStVx : DecodesXS 0xF018 .ldStVx :=
  decodesXS_of_family_F (by decide) fun op (h : fieldNN op = 0x18#8) => by simp only [decodeFamilyF, h]

/-! ## Effects -/

theorem exec_ldVxDt (x : RegIdx) (s : State) : exec (.ldVxDt x) s = .next (s.setV x s.dt).advance := rfl

theorem exec_ldDtVx (x : RegIdx) (s : State) : exec (.ldDtVx x) s = .next { s with dt := s.getV x }.advance := rfl

theorem exec_ldStVx (x : RegIdx) (s : State) : exec (.ldStVx x) s = .next { s with st := s.getV x }.advance := rfl

/-- A write of the delay timer changes that timer only. -/
theorem State.setDt_frame (s : State) (b : Byte) : OnlyChanges s { s with dt := b } (fun p => p = .dt) := fun p hp => by
  cases p with
  | dt => exact absurd rfl hp
  | _ => rfl

/-- A write of the sound timer changes that timer only, so it emits no report (R192). -/
theorem State.setSt_frame (s : State) (b : Byte) : OnlyChanges s { s with st := b } (fun p => p = .st) := fun p hp => by
  cases p with
  | st => exact absurd rfl hp
  | _ => rfl

/-- A change of one part and pc + 2 change that part, pc and status only (R97 mode (a), R100). -/
theorem State.advance_frame {s t : State} {q : Part} (h : OnlyChanges s t (fun p => p = q)) :
    OnlyChanges s t.advance (fun p => p = q ∨ p = .pc ∨ p = .status) :=
  (State.retire_frame _ h).mono fun _ hp => by tauto

/-- Settles O58: the first answers one register write, of the delay timer; the other two answer one write of a timer, of
the register. -/
theorem timerInstructions : Obligations.TimerInstructions := by
  refine ⟨decodesXS_ldVxDt, decodesXS_ldDtVx, decodesXS_ldStVx, fun x s => ⟨?_, ?_, ?_⟩⟩
  · exact exec_setV_effect (· = s.dt) (exec_ldVxDt x s) rfl
  · exact ⟨_, exec_ldDtVx x s, State.advance_dt _, State.advance_pc _, State.advance_status _,
      State.advance_frame (State.setDt_frame s _)⟩
  · exact ⟨_, exec_ldStVx x s, State.advance_st _, State.advance_pc _, State.advance_status _,
      State.advance_frame (State.setSt_frame s _)⟩

end Sys2Proof.Machine
end

section
/-! SUPPORT. The commands that run no instruction: what TICK, KEY and LOAD change, and that none of them transfers control
(40_step_cycle.md R92, R93; 46_timers.md R193; 60_exceptions.md R203). -/

namespace Sys2Proof.Machine

/-! ## Frames of the commands -/

/-- Leaving or clearing a report changes the report only (R32). -/
theorem State.setReport_frame (s : State) (r : Option Report) :
    OnlyChanges s { s with report := r } (fun p => p = .report) := fun p hp => by
  cases p with
  | report => exact absurd rfl hp
  | _ => rfl

/-- Everything a TICK can do (R193, R208). -/
theorem tickCommand_cases (s : State) :
    (s.status = .halted ∧ tickCommand s = .next s.quiet) ∨
      (s.status ≠ .halted ∧ tickCommand s = .next
        { s with dt := timerDown s.dt, st := timerDown s.st, report := if s.st = 1 then some .soundEdge else none }) := by
  unfold tickCommand
  split
  · exact .inl ⟨‹_›, rfl⟩
  · exact .inr ⟨‹_›, rfl⟩

/-- TICK changes the timers and the report only (R193). -/
theorem tickCommand_frame {s t : State} (h : runCommand .tick s = .next t) :
    OnlyChanges s t (fun p => p = .dt ∨ p = .st ∨ p = .report) := by
  change tickCommand s = .next t at h
  obtain ⟨-, he⟩ | ⟨-, he⟩ := tickCommand_cases s
  · cases he.symm.trans h
    exact (s.setReport_frame none).mono fun _ hp => .inr (.inr hp)
  · cases he.symm.trans h
    intro p hp
    cases p with
    | dt => exact absurd (.inl rfl) hp
    | st => exact absurd (.inr (.inl rfl)) hp
    | report => exact absurd (.inr (.inr rfl)) hp
    | _ => rfl

/-- KEY changes its own key and the report only (R93). -/
theorem keyCommand_frame {s t : State} {k : KeyIdx} {pressed : Bool} (h : runCommand (.key k pressed) s = .next t) :
    OnlyChanges s t (fun p => p = .key k ∨ p = .report) := by
  cases h
  intro p hp
  cases p with
  | key j =>
    have hne : k.val ≠ j.val := fun e => hp (.inl (congrArg Part.key (Fin.ext e.symm)))
    exact Vector.getElem_set_ne k.isLt j.isLt hne
  | report => exact absurd (.inr rfl) hp
  | _ => rfl

/-- LOAD changes memory, the report and the model's own launch record only (R92). -/
theorem loadCommand_frame {s t : State} {bytes : List Byte} (h : runCommand (.load bytes) s = .next t) :
    OnlyChanges s t (fun p => (∃ a, p = .memByte a) ∨ p = .report ∨ p = .launch) := by
  change loadCommand bytes s = .next t at h
  obtain ⟨-, he⟩ | ⟨-, -, he⟩ | ⟨-, -, -, he⟩ | ⟨-, -, -, he⟩ := loadCommand_cases bytes s
  · cases he.symm.trans h
    exact (s.setReport_frame none).mono fun _ hp => .inr (.inl hp)
  · exact nomatch he.symm.trans h
  · cases he.symm.trans h
    exact (s.setReport_frame _).mono fun _ hp => .inr (.inl hp)
  · cases he.symm.trans h
    intro p hp
    cases p with
    | memByte a => exact absurd (.inl ⟨a, rfl⟩) hp
    | report => exact absurd (.inr (.inl rfl)) hp
    | launch => exact absurd (.inr (.inr rfl)) hp
    | _ => rfl

/-! ## No transfer of control (R203) -/

/-- A frame with pc, status, the stack and sp outside what it lets change leaves all four as they were. -/
theorem OnlyChanges.control_same {s t : State} {c : Part → Prop} (h : OnlyChanges s t c) (hpc : ¬ c .pc)
    (hstatus : ¬ c .status) (hstack : ∀ k, ¬ c (.stackEntry k)) (hsp : ¬ c .sp) :
    t.pc = s.pc ∧ t.status = s.status ∧ t.stack = s.stack ∧ t.sp = s.sp :=
  ⟨h .pc hpc, h .status hstatus, Vector.ext fun k hk => h (.stackEntry ⟨k, hk⟩) (hstack _), h .sp hsp⟩

/-- Settles O31: none of the three commands' frames lets pc, status, the stack or sp change. -/
theorem noInterrupts : Obligations.NoInterrupts := by
  refine ⟨fun s t h => ?_, fun s t k pressed h => ?_, fun s t bytes h => ?_⟩
  · have hframe := tickCommand_frame h
    exact ⟨hframe, hframe.control_same (by simp) (by simp) (by simp) (by simp)⟩
  · have hframe := keyCommand_frame h
    exact ⟨hframe, hframe.control_same (by simp) (by simp) (by simp) (by simp)⟩
  · exact (loadCommand_frame h).control_same (by simp) (by simp) (by simp) (by simp)

end Sys2Proof.Machine
end

section
/-! SUPPORT. RESET: the state it answers, piece by piece (10_state.md R33; 40_step_cycle.md R91;
70_reset_and_hazards.md R230). -/

namespace Sys2Proof.Machine

/-! ## Memory after RESET (R33) -/

/-- The reset contents are the font on 0x050 to 0x09F and 0 outside: the table ends at 0x0A0. -/
theorem resetByte_eq (a : Nat) :
    Config.resetByte a = if 0x050 ≤ a ∧ a < 0x0A0 then Config.font.getD (a - 0x050) 0 else 0 := by
  have hlen : Config.font.length = 80 := font_fits.1
  rw [Config.resetByte, Config.fontBase]
  by_cases hlow : a < 0x050
  · rw [if_pos hlow, if_neg (by omega)]
  · rw [if_neg hlow]
    by_cases hhigh : a < 0x0A0
    · rw [if_pos ⟨by omega, hhigh⟩]
    · rw [if_neg (by omega)]
      exact List.getD_eq_default _ _ (by omega)

/-- Memory after RESET lists no byte, so it reads as the reset contents everywhere. -/
theorem State.reset_mem_read (a : Nat) : State.reset.mem.read a = Config.resetByte a := rfl

/-! ## Registers, stack and keypad after RESET (R33) -/

@[simp] theorem State.reset_getV (r : RegIdx) : State.reset.getV r = 0 := Vector.getElem_replicate r.isLt

@[simp] theorem State.reset_stack (k : Fin 16) : State.reset.stack[k] = 0 := Vector.getElem_replicate k.isLt

@[simp] theorem State.reset_key (k : KeyIdx) : State.reset.key[k] = false := Vector.getElem_replicate k.isLt

/-! ## The command (R91) -/

/-- RESET answers the reset state but for the host's pending commands and the count of rand bytes. -/
theorem runCommand_reset (s : State) :
    runCommand .reset s = .next { State.reset with pending := s.pending, draws := s.draws } := rfl

/-- Settles O27: RESET answers the reset state, in which the vectors are replicated zeros, memory reads as the font in
its place and 0 elsewhere, and the framebuffer is the clear one. -/
theorem resetCommandSetsEveryPiece : Obligations.ResetCommandSetsEveryPiece := fun s =>
  ⟨_, runCommand_reset s, State.reset_getV, rfl, rfl, rfl, State.reset_stack,
    fun a => (State.reset_mem_read a).trans (resetByte_eq a), FrameBuffer.pixel_clear, State.reset_key,
    rfl, rfl, rfl, rfl, rfl, rfl⟩

end Sys2Proof.Machine
end

section
/-! SUPPORT. The opcode map from both sides: every row of the map decodes to its instruction, encoding undoes decoding
and decoding encoding, and the opcodes that match no row are the decode misses (30_encoding.md R70 to R76). -/

namespace Sys2Proof.Machine

/-! ## Decoding of the other rows (R74, R75) -/

theorem decodesZ_ret : DecodesZ 0x00EE .ret := rfl

/-- Family 0x2 is the call (R75). -/
theorem decode_of_family_call {op : Word} (h : fieldFamily op = 0x2#4) : decode op = some (.call (fieldNNN op)) := by
  simp only [decode, h]

/-- Family 0xB is the indexed jump (R75). -/
theorem decode_of_family_jpV0 {op : Word} (h : fieldFamily op = 0xB#4) : decode op = some (.jpV0 (fieldNNN op)) := by
  simp only [decode, h]

/-- Family 0xD is the sprite (R75). -/
theorem decode_of_family_drw {op : Word} (h : fieldFamily op = 0xD#4) :
    decode op = some (.drw (fieldX op) (fieldY op) (fieldN op)) := by
  simp only [decode, h]

/-- Family 0x5 is the skip on equal registers where N is 0, and a decode miss elsewhere (R75, R76). -/
theorem decode_of_family_5 {op : Word} (h : fieldFamily op = 0x5#4) :
    decode op = if fieldN op = 0 then some (.seReg (fieldX op) (fieldY op)) else none := by
  simp only [decode, h]

/-- Family 0x9 is the skip on unequal registers where N is 0, and a decode miss elsewhere (R75, R76). -/
theorem decode_of_family_9 {op : Word} (h : fieldFamily op = 0x9#4) :
    decode op = if fieldN op = 0 then some (.sneReg (fieldX op) (fieldY op)) else none := by
  simp only [decode, h]

/-- Family 0xE has a decoder of its own (R74). -/
theorem decode_of_family_E {op : Word} (h : fieldFamily op = 0xE#4) : decode op = decodeFamilyE op := by
  simp only [decode, h]

theorem decodesA_call : DecodesA 0x2000 .call := fun _ h => decode_of_family_call (family_of_mask h)

theorem decodesA_jpV0 : DecodesA 0xB000 .jpV0 := fun _ h => decode_of_family_jpV0 (family_of_mask h)

theorem decodesXYN_drw : DecodesXYN 0xD000 .drw := fun _ h => decode_of_family_drw (family_of_mask h)

theorem decodesXY_seReg : DecodesXY 0x5000 .seReg := fun _ h => by
  obtain ⟨hf, hn⟩ := family_sub_of_maskXY h
  exact (decode_of_family_5 hf).trans (if_pos hn)

theorem decodesXY_sneReg : DecodesXY 0x9000 .sneReg := fun _ h => by
  obtain ⟨hf, hn⟩ := family_sub_of_maskXY h
  exact (decode_of_family_9 hf).trans (if_pos hn)

theorem decodesXY_addReg : DecodesXY 0x8004 .addReg :=
  decodesXY_of_family_8 (by decide) fun op (h : fieldN op = 0x4#4) => by simp only [decodeFamily8, h]

theorem decodesXY_sub : DecodesXY 0x8005 .sub :=
  decodesXY_of_family_8 (by decide) fun op (h : fieldN op = 0x5#4) => by simp only [decodeFamily8, h]

theorem decodesXY_shr : DecodesXY 0x8006 .shr :=
  decodesXY_of_family_8 (by decide) fun op (h : fieldN op = 0x6#4) => by simp only [decodeFamily8, h]

theorem decodesXY_subn : DecodesXY 0x8007 .subn :=
  decodesXY_of_family_8 (by decide) fun op (h : fieldN op = 0x7#4) => by simp only [decodeFamily8, h]

theorem decodesXY_shl : DecodesXY 0x800E .shl :=
  decodesXY_of_family_8 (by decide) fun op (h : fieldN op = 0xE#4) => by simp only [decodeFamily8, h]

/-- In family 0xE the fixed bits of format XS choose the instruction by op[7:0] alone (R74). -/
theorem decodesXS_of_family_E {fixed : Word} {c : RegIdx → Instr} (hfamily : fieldFamily fixed = 0xE#4)
    (hsub : ∀ op, fieldNN op = fieldNN fixed → decodeFamilyE op = some (c (fieldX op))) : DecodesXS fixed c :=
  fun op h => by
    obtain ⟨hf, hnn⟩ := family_sub_of_maskXS h
    exact (decode_of_family_E (hf.trans hfamily)).trans (hsub op hnn)

theorem decodesXS_skp : DecodesXS 0xE09E .skp :=
  decodesXS_of_family_E (by decide) fun op (h : fieldNN op = 0x9E#8) => by simp only [decodeFamilyE, h]

theorem decodesXS_sknp : DecodesXS 0xE0A1 .sknp :=
  decodesXS_of_family_E (by decide) fun op (h : fieldNN op = 0xA1#8) => by simp only [decodeFamilyE, h]

theorem decodesXS_addI : DecodesXS 0xF01E .addI :=
  decodesXS_of_family_F (by decide) fun op (h : fieldNN op = 0x1E#8) => by simp only [decodeFamilyF, h]

theorem decodesXS_ldF : DecodesXS 0xF029 .ldF :=
  decodesXS_of_family_F (by decide) fun op (h : fieldNN op = 0x29#8) => by simp only [decodeFamilyF, h]

theorem decodesXS_ldB : DecodesXS 0xF033 .ldB :=
  decodesXS_of_family_F (by decide) fun op (h : fieldNN op = 0x33#8) => by simp only [decodeFamilyF, h]

theorem decodesXS_stRegs : DecodesXS 0xF055 .stRegs :=
  decodesXS_of_family_F (by decide) fun op (h : fieldNN op = 0x55#8) => by simp only [decodeFamilyF, h]

theorem decodesXS_ldRegs : DecodesXS 0xF065 .ldRegs :=
  decodesXS_of_family_F (by decide) fun op (h : fieldNN op = 0x65#8) => by simp only [decodeFamilyF, h]

/-! ## Decoding what a format builds (R72) -/

theorem DecodesA.decode_format {f : BitVec 4} {c : Addr12 → Instr} (h : DecodesA (formatA f 0) c) (nnn : Addr12) :
    decode (formatA f nnn) = some (c nnn) :=
  (h _ (formatA_mask f nnn)).trans (congrArg (some ∘ c) (fieldNNN_formatA f nnn))

theorem DecodesXI.decode_format {f : BitVec 4} {c : RegIdx → Byte → Instr} (h : DecodesXI (formatXI f 0 0) c)
    (x : RegIdx) (nn : Byte) : decode (formatXI f x nn) = some (c x nn) :=
  (h _ (formatXI_mask f x nn)).trans
    (congrArg some (congrArg₂ c (fieldX_formatXI f x nn) (fieldNN_formatXI f x nn)))

theorem DecodesXS.decode_format {f : BitVec 4} {nn : Byte} {c : RegIdx → Instr} (h : DecodesXS (formatXI f 0 nn) c)
    (x : RegIdx) : decode (formatXI f x nn) = some (c x) :=
  (h _ (formatXS_mask f x nn)).trans (congrArg (some ∘ c) (fieldX_formatXI f x nn))

theorem DecodesXY.decode_format {f n : BitVec 4} {c : RegIdx → RegIdx → Instr} (h : DecodesXY (formatXY f 0 0 n) c)
    (x y : RegIdx) : decode (formatXY f x y n) = some (c x y) :=
  (h _ (formatXY_mask f n x y)).trans
    (congrArg some (congrArg₂ c (fieldX_formatXY f n x y) (fieldY_formatXY f n x y)))

theorem decode_formatXY_drw (x y : RegIdx) (n : BitVec 4) : decode (formatXY 0xD#4 x y n) = some (.drw x y n) := by
  rw [decode_of_family_drw (fieldFamily_formatXY _ n x y), fieldX_formatXY, fieldY_formatXY, fieldN_formatXY]

/-- Decoding undoes encoding, row by row of the map (R75). -/
theorem decode_encode : ∀ i : Instr, decode (encode i) = some i
  | .cls => decodesZ_cls
  | .ret => decodesZ_ret
  | .jp nnn => decodesA_jp.decode_format (f := 0x1#4) nnn
  | .call nnn => decodesA_call.decode_format (f := 0x2#4) nnn
  | .seImm x nn => decodesXI_seImm.decode_format (f := 0x3#4) x nn
  | .sneImm x nn => decodesXI_sneImm.decode_format (f := 0x4#4) x nn
  | .seReg x y => decodesXY_seReg.decode_format (f := 0x5#4) (n := 0x0#4) x y
  | .sneReg x y => decodesXY_sneReg.decode_format (f := 0x9#4) (n := 0x0#4) x y
  | .ldImm x nn => decodesXI_ldImm.decode_format (f := 0x6#4) x nn
  | .addImm x nn => decodesXI_addImm.decode_format (f := 0x7#4) x nn
  | .ldReg x y => decodesXY_ldReg.decode_format (f := 0x8#4) (n := 0x0#4) x y
  | .orReg x y => decodesXY_orReg.decode_format (f := 0x8#4) (n := 0x1#4) x y
  | .andReg x y => decodesXY_andReg.decode_format (f := 0x8#4) (n := 0x2#4) x y
  | .xorReg x y => decodesXY_xorReg.decode_format (f := 0x8#4) (n := 0x3#4) x y
  | .addReg x y => decodesXY_addReg.decode_format (f := 0x8#4) (n := 0x4#4) x y
  | .sub x y => decodesXY_sub.decode_format (f := 0x8#4) (n := 0x5#4) x y
  | .shr x y => decodesXY_shr.decode_format (f := 0x8#4) (n := 0x6#4) x y
  | .subn x y => decodesXY_subn.decode_format (f := 0x8#4) (n := 0x7#4) x y
  | .shl x y => decodesXY_shl.decode_format (f := 0x8#4) (n := 0xE#4) x y
  | .ldI nnn => decodesA_ldI.decode_format (f := 0xA#4) nnn
  | .jpV0 nnn => decodesA_jpV0.decode_format (f := 0xB#4) nnn
  | .rnd x nn => decodesXI_rnd.decode_format (f := 0xC#4) x nn
  | .drw x y n => decode_formatXY_drw x y n
  | .skp x => decodesXS_skp.decode_format (f := 0xE#4) (nn := 0x9E#8) x
  | .sknp x => decodesXS_sknp.decode_format (f := 0xE#4) (nn := 0xA1#8) x
  | .ldVxDt x => decodesXS_ldVxDt.decode_format (f := 0xF#4) (nn := 0x07#8) x
  | .ldDtVx x => decodesXS_ldDtVx.decode_format (f := 0xF#4) (nn := 0x15#8) x
  | .ldStVx x => decodesXS_ldStVx.decode_format (f := 0xF#4) (nn := 0x18#8) x
  | .ldVxK x => decodesXS_ldVxK.decode_format (f := 0xF#4) (nn := 0x0A#8) x
  | .addI x => decodesXS_addI.decode_format (f := 0xF#4) (nn := 0x1E#8) x
  | .ldF x => decodesXS_ldF.decode_format (f := 0xF#4) (nn := 0x29#8) x
  | .ldB x => decodesXS_ldB.decode_format (f := 0xF#4) (nn := 0x33#8) x
  | .stRegs x => decodesXS_stRegs.decode_format (f := 0xF#4) (nn := 0x55#8) x
  | .ldRegs x => decodesXS_ldRegs.decode_format (f := 0xF#4) (nn := 0x65#8) x

/-- The bytes of an opcode that decodes are read as its instruction, and what follows them is left (R70). -/
theorem decodeBytes_opcodeBytes {op : Word} {i : Instr} (h : decode op = some i) (rest : List Byte) :
    decodeBytes (opcodeBytes op ++ rest) = .ok (i, rest) := by
  simp only [opcodeBytes, List.cons_append, List.nil_append, decodeBytes, opcodeOfBytes_halves, h]

/-- Settles O1: every row of the map decodes what its format builds, and the two halves of an opcode are the opcode. -/
theorem decodeOfEncodeIsTheInstruction : Obligations.DecodeOfEncodeIsTheInstruction := fun i =>
  ⟨decode_encode i, decodeBytes_opcodeBytes (decode_encode i)⟩

/-! ## Encoding undoes decoding -/

/-- In family 0x0 each arm fixes NNN, so the opcode is the constant it encodes. -/
theorem encode_of_decodeFamily0 {op : Word} {i : Instr} (hf : fieldFamily op = 0x0#4)
    (h : decodeFamily0 op = some i) : encode i = op := by
  have hop : formatA 0x0#4 (fieldNNN op) = op := hf ▸ formatA_fields op
  unfold decodeFamily0 at h
  split at h <;> cases h <;> rename_i hnnn <;> rw [hnnn] at hop <;> exact hop

/-- In family 0x8 each arm fixes N, and format XY rebuilds the opcode from X, Y and N. -/
theorem encode_of_decodeFamily8 {op : Word} {i : Instr} (hf : fieldFamily op = 0x8#4)
    (h : decodeFamily8 op = some i) : encode i = op := by
  have hop : formatXY 0x8#4 (fieldX op) (fieldY op) (fieldN op) = op := hf ▸ formatXY_fields op
  unfold decodeFamily8 at h
  split at h <;> cases h <;> rename_i hn <;> rw [hn] at hop <;> exact hop

/-- In family 0xE each arm fixes NN, and format XI rebuilds the opcode from X and NN. -/
theorem encode_of_decodeFamilyE {op : Word} {i : Instr} (hf : fieldFamily op = 0xE#4)
    (h : decodeFamilyE op = some i) : encode i = op := by
  have hop : formatXI 0xE#4 (fieldX op) (fieldNN op) = op := hf ▸ formatXI_fields op
  unfold decodeFamilyE at h
  split at h <;> cases h <;> rename_i hnn <;> rw [hnn] at hop <;> exact hop

/-- In family 0xF each arm fixes NN, as in family 0xE. -/
theorem encode_of_decodeFamilyF {op : Word} {i : Instr} (hf : fieldFamily op = 0xF#4)
    (h : decodeFamilyF op = some i) : encode i = op := by
  have hop : formatXI 0xF#4 (fieldX op) (fieldNN op) = op := hf ▸ formatXI_fields op
  unfold decodeFamilyF at h
  split at h <;> cases h <;> rename_i hnn <;> rw [hnn] at hop <;> exact hop

/-- Encoding undoes decoding: in every family the opcode is what its format builds from its fields (R72, R74). -/
theorem encode_of_decode {op : Word} {i : Instr} (h : decode op = some i) : encode i = op := by
  have hA := formatA_fields op
  have hXI := formatXI_fields op
  have hXY := formatXY_fields op
  unfold decode at h
  -- the arms of `decode` in the order of the family: h_1 is family 0x0, h_16 family 0xF, h_17 no family
  split at h <;> rename_i hf
  case h_1 => exact encode_of_decodeFamily0 hf h
  case h_9 => exact encode_of_decodeFamily8 hf h
  case h_15 => exact encode_of_decodeFamilyE hf h
  case h_16 => exact encode_of_decodeFamilyF hf h
  case h_6 | h_10 =>
    split at h <;> cases h
    rename_i hn
    rw [hf, hn] at hXY
    exact hXY
  case h_14 =>
    cases h
    rw [hf] at hXY
    exact hXY
  case h_2 | h_3 | h_11 | h_12 =>
    cases h
    rw [hf] at hA
    exact hA
  case h_4 | h_5 | h_7 | h_8 | h_13 =>
    cases h
    rw [hf] at hXI
    exact hXI
  case h_17 => exact nomatch h

/-- Settles O2: no bit of an opcode is dropped, since its format is rebuilt from its fields. -/
theorem encodeOfDecodeIsTheOpcode : Obligations.EncodeOfDecodeIsTheOpcode := fun _ _ => encode_of_decode

/-! ## The rows of the map (R74, R75) -/

/-- Every opcode that matches the row decodes to an instruction with the row's mnemonic. -/
def RowDecodes (r : OpcodeRow) : Prop :=
  ∀ op : Word, r.matchesOp op = true → ∃ i, decode op = some i ∧ mnemonicOf i = r.mnemonic

theorem DecodesZ.row {fixed : Word} {i : Instr} (h : DecodesZ fixed i) : RowDecodes ⟨mnemonicOf i, fixed, 0xFFFF⟩ :=
  fun op hm => by
    have hop : op &&& BitVec.allOnes 16 = fixed := beq_iff_eq.mp hm
    rw [BitVec.and_allOnes] at hop
    exact ⟨i, hop ▸ h, rfl⟩

theorem DecodesA.row {fixed : Word} {c : Addr12 → Instr} {name : String} (h : DecodesA fixed c)
    (hname : ∀ nnn, mnemonicOf (c nnn) = name) : RowDecodes ⟨name, fixed, 0xF000⟩ :=
  fun op hm => ⟨_, h op (beq_iff_eq.mp hm), hname _⟩

theorem DecodesXI.row {fixed : Word} {c : RegIdx → Byte → Instr} {name : String} (h : DecodesXI fixed c)
    (hname : ∀ x nn, mnemonicOf (c x nn) = name) : RowDecodes ⟨name, fixed, 0xF000⟩ :=
  fun op hm => ⟨_, h op (beq_iff_eq.mp hm), hname _ _⟩

theorem DecodesXY.row {fixed : Word} {c : RegIdx → RegIdx → Instr} {name : String} (h : DecodesXY fixed c)
    (hname : ∀ x y, mnemonicOf (c x y) = name) : RowDecodes ⟨name, fixed, 0xF00F⟩ :=
  fun op hm => ⟨_, h op (beq_iff_eq.mp hm), hname _ _⟩

theorem DecodesXYN.row {fixed : Word} {c : RegIdx → RegIdx → BitVec 4 → Instr} {name : String}
    (h : DecodesXYN fixed c) (hname : ∀ x y n, mnemonicOf (c x y n) = name) : RowDecodes ⟨name, fixed, 0xF000⟩ :=
  fun op hm => ⟨_, h op (beq_iff_eq.mp hm), hname _ _ _⟩

theorem DecodesXS.row {fixed : Word} {c : RegIdx → Instr} {name : String} (h : DecodesXS fixed c)
    (hname : ∀ x, mnemonicOf (c x) = name) : RowDecodes ⟨name, fixed, 0xF0FF⟩ :=
  fun op hm => ⟨_, h op (beq_iff_eq.mp hm), hname _⟩

theorem opcodeRowsPrimary_decode : ∀ r ∈ opcodeRowsPrimary, RowDecodes r := by
  simp only [opcodeRowsPrimary, List.forall_mem_cons]
  exact ⟨decodesZ_cls.row, decodesZ_ret.row, decodesA_jp.row fun _ => rfl, decodesA_call.row fun _ => rfl,
    decodesXI_seImm.row fun _ _ => rfl, decodesXI_sneImm.row fun _ _ => rfl, decodesXY_seReg.row fun _ _ => rfl,
    decodesXY_sneReg.row fun _ _ => rfl, decodesXI_ldImm.row fun _ _ => rfl, decodesXI_addImm.row fun _ _ => rfl,
    List.forall_mem_nil _⟩

theorem opcodeRowsAlu_decode : ∀ r ∈ opcodeRowsAlu, RowDecodes r := by
  simp only [opcodeRowsAlu, List.forall_mem_cons]
  exact ⟨decodesXY_ldReg.row fun _ _ => rfl, decodesXY_orReg.row fun _ _ => rfl, decodesXY_andReg.row fun _ _ => rfl,
    decodesXY_xorReg.row fun _ _ => rfl, decodesXY_addReg.row fun _ _ => rfl, decodesXY_sub.row fun _ _ => rfl,
    decodesXY_shr.row fun _ _ => rfl, decodesXY_subn.row fun _ _ => rfl, decodesXY_shl.row fun _ _ => rfl,
    List.forall_mem_nil _⟩

theorem opcodeRowsHigh_decode : ∀ r ∈ opcodeRowsHigh, RowDecodes r := by
  simp only [opcodeRowsHigh, List.forall_mem_cons]
  exact ⟨decodesA_ldI.row fun _ => rfl, decodesA_jpV0.row fun _ => rfl, decodesXI_rnd.row fun _ _ => rfl,
    decodesXYN_drw.row fun _ _ _ => rfl, decodesXS_skp.row fun _ => rfl, decodesXS_sknp.row fun _ => rfl,
    decodesXS_ldVxDt.row fun _ => rfl, decodesXS_ldDtVx.row fun _ => rfl, decodesXS_ldStVx.row fun _ => rfl,
    decodesXS_ldVxK.row fun _ => rfl, decodesXS_addI.row fun _ => rfl, decodesXS_ldF.row fun _ => rfl,
    decodesXS_ldB.row fun _ => rfl, decodesXS_stRegs.row fun _ => rfl, decodesXS_ldRegs.row fun _ => rfl,
    List.forall_mem_nil _⟩

/-- Every opcode that matches a row of the map decodes to the row's instruction. -/
theorem opcodeTable_decodes {r : OpcodeRow} (hr : r ∈ opcodeTable) : RowDecodes r := by
  rcases List.mem_append.mp hr with hr | hr
  · rcases List.mem_append.mp hr with hr | hr
    · exact opcodeRowsPrimary_decode r hr
    · exact opcodeRowsAlu_decode r hr
  · exact opcodeRowsHigh_decode r hr

/-- Rows whose fixed bits differ under the other's mask have no opcode in common: `op &&& mask &&& mask'` would be
both. -/
theorem OpcodeRow.disjoint_of_fixed_ne {r r' : OpcodeRow} (h : r.fixed &&& r'.mask ≠ r'.fixed &&& r.mask) (op : Word) :
    ¬ (r.matchesOp op = true ∧ r'.matchesOp op = true) := fun ⟨hr, hr'⟩ => h <| by
  rw [← beq_iff_eq.mp hr, ← beq_iff_eq.mp hr', BitVec.and_assoc, BitVec.and_assoc, BitVec.and_comm r.mask]

/-- Settles O3: the rows decode format by format, and any two of them differ in a bit that both fix. -/
theorem opcodeMapRowsDecodeToTheirMnemonic : Obligations.OpcodeMapRowsDecodeToTheirMnemonic :=
  ⟨rfl, List.Pairwise.imp OpcodeRow.disjoint_of_fixed_ne
    (by decide : opcodeTable.Pairwise fun r r' => r.fixed &&& r'.mask ≠ r'.fixed &&& r.mask),
    fun op _ hr hm => opcodeTable_decodes hr op hm⟩

/-! ## Decode misses (R76) -/

/-- Every encoding matches its row of the map. -/
theorem encode_matches_row : ∀ i : Instr, Laws.EncodingInTable.Statement i
  | .cls => Laws.EncodingInTable.cls
  | .ret => Laws.EncodingInTable.ret
  | .jp nnn => Laws.EncodingInTable.jp nnn
  | .call nnn => Laws.EncodingInTable.call nnn
  | .seImm x nn => Laws.EncodingInTable.seImm x nn
  | .sneImm x nn => Laws.EncodingInTable.sneImm x nn
  | .seReg x y => Laws.EncodingInTable.seReg x y
  | .sneReg x y => Laws.EncodingInTable.sneReg x y
  | .ldImm x nn => Laws.EncodingInTable.ldImm x nn
  | .addImm x nn => Laws.EncodingInTable.addImm x nn
  | .ldReg x y => Laws.EncodingInTable.ldReg x y
  | .orReg x y => Laws.EncodingInTable.orReg x y
  | .andReg x y => Laws.EncodingInTable.andReg x y
  | .xorReg x y => Laws.EncodingInTable.xorReg x y
  | .addReg x y => Laws.EncodingInTable.addReg x y
  | .sub x y => Laws.EncodingInTable.sub x y
  | .shr x y => Laws.EncodingInTable.shr x y
  | .subn x y => Laws.EncodingInTable.subn x y
  | .shl x y => Laws.EncodingInTable.shl x y
  | .ldI nnn => Laws.EncodingInTable.ldI nnn
  | .jpV0 nnn => Laws.EncodingInTable.jpV0 nnn
  | .rnd x nn => Laws.EncodingInTable.rnd x nn
  | .drw x y n => Laws.EncodingInTable.drw x y n
  | .skp x => Laws.EncodingInTable.skp x
  | .sknp x => Laws.EncodingInTable.sknp x
  | .ldVxDt x => Laws.EncodingInTable.ldVxDt x
  | .ldDtVx x => Laws.EncodingInTable.ldDtVx x
  | .ldStVx x => Laws.EncodingInTable.ldStVx x
  | .ldVxK x => Laws.EncodingInTable.ldVxK x
  | .addI x => Laws.EncodingInTable.addI x
  | .ldF x => Laws.EncodingInTable.ldF x
  | .ldB x => Laws.EncodingInTable.ldB x
  | .stRegs x => Laws.EncodingInTable.stRegs x
  | .ldRegs x => Laws.EncodingInTable.ldRegs x

/-- An opcode decodes exactly when it matches a row of the map. -/
theorem decode_isSome_iff_wellFormed (op : Word) : (∃ i, decode op = some i) ↔ opcodeWellFormed op = true := by
  rw [opcodeWellFormed, List.any_eq_true]
  constructor
  · rintro ⟨i, hi⟩
    obtain ⟨r, hr, -, hm⟩ := encode_matches_row i
    exact ⟨r, hr, encode_of_decode hi ▸ hm⟩
  · rintro ⟨r, hr, hm⟩
    obtain ⟨i, hi, -⟩ := opcodeTable_decodes hr op hm
    exact ⟨i, hi⟩

/-- The decode misses are the opcodes that match no row (R76). -/
theorem decode_none_iff_not_wellFormed (op : Word) : decode op = none ↔ opcodeWellFormed op = false := by
  rw [Option.eq_none_iff_forall_ne_some, ← not_exists, decode_isSome_iff_wellFormed, Bool.not_eq_true]

/-! ## Fields as numbers (R5, R71) -/

theorem fieldFamily_toNat (op : Word) : (fieldFamily op).toNat = op.toNat / 4096 := by
  have hop : op.toNat < 65536 := op.isLt
  rw [fieldFamily, BitVec.extractLsb'_toNat, Nat.shiftRight_eq_div_pow, Nat.mod_eq_of_lt]
  omega

theorem fieldX_val (op : Word) : (fieldX op).val = op.toNat / 256 % 16 := by
  show (op.extractLsb' 8 4).toNat = _
  rw [BitVec.extractLsb'_toNat, Nat.shiftRight_eq_div_pow]

theorem fieldY_val (op : Word) : (fieldY op).val = op.toNat / 16 % 16 := by
  show (op.extractLsb' 4 4).toNat = _
  rw [BitVec.extractLsb'_toNat, Nat.shiftRight_eq_div_pow]

theorem fieldN_toNat (op : Word) : (fieldN op).toNat = op.toNat % 16 := by
  rw [fieldN, BitVec.extractLsb'_toNat, Nat.shiftRight_zero]

theorem fieldNN_toNat (op : Word) : (fieldNN op).toNat = op.toNat % 256 := by
  rw [fieldNN, BitVec.extractLsb'_toNat, Nat.shiftRight_zero]

theorem fieldNNN_toNat (op : Word) : (fieldNNN op).toNat = op.toNat % 4096 := by
  rw [fieldNNN, BitVec.extractLsb'_toNat, Nat.shiftRight_zero]

/-- Settles O5: extracting bits is a quotient and a remainder by powers of two. -/
theorem fieldsAreTheirBitRanges : Obligations.FieldsAreTheirBitRanges := fun op =>
  ⟨fieldFamily_toNat op, fieldX_val op, fieldY_val op, fieldN_toNat op, fieldNN_toNat op, fieldNNN_toNat op⟩

/-! ## Decode misses by family (R76) -/

/-- The decode misses of family 0x0, by NNN. -/
theorem decodeFamily0_none_iff (op : Word) :
    decodeFamily0 op = none ↔ op.toNat % 4096 ∉ [0x0E0, 0x0EE] := by
  rw [← fieldNNN_toNat]
  unfold decodeFamily0
  split <;> simp_all [BitVec.toNat_eq]

/-- The decode misses of family 0x8, by N. -/
theorem decodeFamily8_none_iff (op : Word) :
    decodeFamily8 op = none ↔ op.toNat % 16 ∈ [0x8, 0x9, 0xA, 0xB, 0xC, 0xD, 0xF] := by
  rw [← fieldN_toNat]
  unfold decodeFamily8
  split <;> simp_all [BitVec.toNat_eq]
  omega

/-- The decode misses of family 0xE, by NN. -/
theorem decodeFamilyE_none_iff (op : Word) : decodeFamilyE op = none ↔ op.toNat % 256 ∉ [0x9E, 0xA1] := by
  rw [← fieldNN_toNat]
  unfold decodeFamilyE
  split <;> simp_all [BitVec.toNat_eq]

/-- The decode misses of family 0xF, by NN. -/
theorem decodeFamilyF_none_iff (op : Word) :
    decodeFamilyF op = none ↔ op.toNat % 256 ∉ [0x07, 0x0A, 0x15, 0x18, 0x1E, 0x29, 0x33, 0x55, 0x65] := by
  rw [← fieldNN_toNat]
  unfold decodeFamilyF
  split <;> simp_all [BitVec.toNat_eq]

/-- In families 0x5 and 0x9 an opcode is a decode miss exactly when N is not 0 (R76). -/
theorem ite_fieldN_none_iff (op : Word) (i : Instr) :
    (if fieldN op = 0 then some i else none) = none ↔ op.toNat % 16 ≠ 0 := by
  rw [← fieldN_toNat]
  simp [BitVec.toNat_eq]

/-- The decode misses are those of families 0x0, 0x5, 0x8, 0x9, 0xE and 0xF: every other family decodes whole (R76). -/
theorem decode_none_iff_family (op : Word) : decode op = none ↔
      (op.toNat / 4096 = 0x0 ∧ op.toNat ≠ 0x00E0 ∧ op.toNat ≠ 0x00EE) ∨
      (op.toNat / 4096 = 0x5 ∧ op.toNat % 16 ≠ 0) ∨
      (op.toNat / 4096 = 0x8 ∧ op.toNat % 16 ∈ [0x8, 0x9, 0xA, 0xB, 0xC, 0xD, 0xF]) ∨
      (op.toNat / 4096 = 0x9 ∧ op.toNat % 16 ≠ 0) ∨
      (op.toNat / 4096 = 0xE ∧ op.toNat % 256 ∉ [0x9E, 0xA1]) ∨
      (op.toNat / 4096 = 0xF ∧ op.toNat % 256 ∉ [0x07, 0x0A, 0x15, 0x18, 0x1E, 0x29, 0x33, 0x55, 0x65]) := by
  unfold decode
  -- the arms of `decode` in the order of the family: h_1 is family 0x0, h_16 family 0xF, h_17 no family
  split <;> rename_i hf
  case h_17 =>
    exfalso
    simp [BitVec.toNat_eq] at *
    omega
  all_goals
    have hfamily := fieldFamily_toNat op
    rw [hf] at hfamily
  case h_1 =>
    have hlow : op.toNat % 4096 = op.toNat := Nat.mod_eq_of_lt (by simp at hfamily; omega)
    simp [← hfamily, decodeFamily0_none_iff, hlow]
  case h_6 | h_10 => simp only [ite_fieldN_none_iff, ← hfamily]; simp
  case h_9 => simp [← hfamily, decodeFamily8_none_iff]
  case h_15 => simp [← hfamily, decodeFamilyE_none_iff]
  case h_16 => simp [← hfamily, decodeFamilyF_none_iff]
  case h_2 | h_3 | h_4 | h_5 | h_7 | h_8 | h_11 | h_12 | h_13 | h_14 => simp [← hfamily]

/-- Settles O4: what decodes is encoded as a row of the map, and each family's decoder misses what the spec lists. -/
theorem decodeMissExactlyWhenNoRowMatches : Obligations.DecodeMissExactlyWhenNoRowMatches := fun op =>
  ⟨decode_none_iff_not_wellFormed op, decode_none_iff_family op⟩

/-- Settles O6: each sample that decodes is the encoding of its instruction, and the other three are in the families'
decode misses. -/
theorem sampleOpcodesDecode : Obligations.SampleOpcodesDecode :=
  ⟨⟨decode_encode .cls, decode_encode (.jp 0xABC), decode_encode (.call 0x300), decode_encode (.seImm 0xA 0x42),
    decode_encode (.sneImm 0xA 0x42), decode_encode (.seReg 1 2), decode_encode (.ldImm 0xA 0x42),
    decode_encode (.addImm 0xA 0x01), decode_encode (.addReg 1 2), decode_encode (.sneReg 1 2),
    decode_encode (.ldI 0x123), decode_encode (.jpV0 0x300), decode_encode (.rnd 1 0x0F),
    decode_encode (.drw 1 2 3), decode_encode (.sknp 1), decode_encode (.ldRegs 2), decode_encode (.ldVxDt 1)⟩,
    (decode_none_iff_family _).mpr (by decide), (decode_none_iff_family _).mpr (by decide),
    (decode_none_iff_family _).mpr (by decide)⟩

end Sys2Proof.Machine
end

section
/-! SUPPORT. Everything an instruction, a STEP and a command can do, said once: what an instruction has written when it
completes, which fault it can raise, and when it waits (40_step_cycle.md R94 to R102; 60_exceptions.md R200). -/

namespace Sys2Proof.Machine

/-! ## What an instruction writes before pc and status -/

/-- The five flag instructions with destination X (42_alu.md R143). -/
def IsFlagInstr (i : Instr) (x : RegIdx) : Prop :=
  ∃ y, i = .addReg x y ∨ i = .sub x y ∨ i = .shr x y ∨ i = .subn x y ∨ i = .shl x y

/-- What an instruction that completes has written of a state before pc and status: one of these pieces, or none. -/
inductive Wrote (s : State) : Instr → State → Prop where
  /-- the jumps and skips write nothing more -/
  | nothing {i : Instr} : Wrote s i s
  /-- one general register, the X field's -/
  | reg {i : Instr} {x : RegIdx} (hx : xField i = some x) (b : Byte) : Wrote s i (s.setV x b)
  /-- the flag and then the result (R130) -/
  | flagged {i : Instr} {x : RegIdx} (hi : IsFlagInstr i x) (flag result : Byte) :
      Wrote s i (s.setFlagThenResult x flag result)
  /-- the index register (R22) -/
  | index {i : Instr} (hi : (∃ nnn, i = .ldI nnn) ∨ (∃ x, i = .addI x) ∨ ∃ x, i = .ldF x) (w : Word) :
      Wrote s i { s with i := w }
  /-- a stack entry and sp + 1 (R111) -/
  | pushed {nnn : Addr12} (w : Word) (h : s.sp.val < Config.stackDepth) :
      Wrote s (.call nnn) { s with stack := s.stack.set s.sp.val w h, sp := ⟨s.sp.val + 1, by omega⟩ }
  /-- sp - 1 (R112) -/
  | popped (h : s.sp.val ≠ 0) : Wrote s .ret { s with sp := ⟨s.sp.val - 1, by omega⟩ }
  /-- the whole framebuffer (R170) -/
  | cleared : Wrote s .cls { s with fb := FrameBuffer.clear }
  /-- pixels and the flag (R171) -/
  | drawn {x y : RegIdx} {n : BitVec 4} (f : FrameBuffer) (hit : Bool) :
      Wrote s (.drw x y n) ({ s with fb := f }.setV regVF (flagByte hit))
  /-- bytes from I on that lie in memory (R153, R154) -/
  | stored {i : Instr} (hi : (∃ x, i = .ldB x) ∨ ∃ x, i = .stRegs x) {ws : List Byte}
      (hfit : s.effAddr 0 + ws.length ≤ Config.memSize) :
      Wrote s i { s with mem := s.mem.writeBytes (s.effAddr 0) ws }
  /-- V0 to VX (R155) -/
  | loaded {x : RegIdx} {bs : List Byte} (hlen : bs.length = x.val + 1) :
      Wrote s (.ldRegs x) { s with v := loadRegsFrom s.v 0 bs }
  /-- the delay timer (R191) -/
  | delayTimer {x : RegIdx} : Wrote s (.ldDtVx x) { s with dt := s.getV x }
  /-- the sound timer (R192) -/
  | soundTimer {x : RegIdx} : Wrote s (.ldStVx x) { s with st := s.getV x }

/-- The faults an instruction can raise (60_exceptions.md R200). -/
def CanRaise (i : Instr) (c : FaultCause) : Prop :=
  (c = .stackOverflow ∧ ∃ nnn, i = .call nnn) ∨ (c = .stackUnderflow ∧ i = .ret) ∨
    (c = .memFault ∧ ((∃ x y n, i = .drw x y n) ∨ (∃ x, i = .ldB x) ∨ (∃ x, i = .stRegs x) ∨ ∃ x, i = .ldRegs x)) ∨
    (c = .keyIndexFault ∧ ((∃ x, i = .skp x) ∨ ∃ x, i = .sknp x))

/-- The three ways an instruction can end (R97, R99, R100): it completes, it raises a fault, or it waits for a key. -/
inductive Ends (i : Instr) (s : State) : Prop where
  | completes {u : State} (hu : Wrote s i u) (target : Word) (h : exec i s = .next (u.retire target))
  | faults {c : FaultCause} (hc : CanRaise i c) (h : exec i s = .next (s.raise c))
  | waits {x : RegIdx} (hi : i = .ldVxK x) (hkey : firstPressed s.key = none) (h : exec i s = .next s.await)

/-! ## The instructions that can fault or wait -/

theorem exec_call_of_push {s u : State} (nnn : Addr12) (h : s.push (s.pc + 2) = some u) :
    exec (.call nnn) s = .next (u.retire (zext16 nnn)) := by
  simp only [exec, execCall, State.pcAfter_one, h]

theorem exec_call_of_full {s : State} (nnn : Addr12) (h : s.sp.val = 16) :
    exec (.call nnn) s = .next (s.raise .stackOverflow) := by
  simp only [exec, execCall, State.push_full s _ h]

theorem exec_ret_of_pop {s u : State} {w : Word} (h : s.pop = some (w, u)) : exec .ret s = .next (u.retire w) := by
  simp only [exec, execRet, h]

theorem exec_ret_of_empty {s : State} (h : s.sp.val = 0) : exec .ret s = .next (s.raise .stackUnderflow) := by
  simp only [exec, execRet, State.pop_empty s h]

theorem exec_skp_of_lt {x : RegIdx} {s : State} (h : (s.getV x).toNat < 16) :
    exec (.skp x) s = .next (s.skipIf (s.key[(s.getV x).toNat]'h)) := by
  simp only [exec, execSkp, keyIndex_of_lt _ h]
  rfl

theorem exec_sknp_of_lt {x : RegIdx} {s : State} (h : (s.getV x).toNat < 16) :
    exec (.sknp x) s = .next (s.skipIf !(s.key[(s.getV x).toNat]'h)) := by
  simp only [exec, execSknp, keyIndex_of_lt _ h]
  rfl

theorem exec_skp_of_gt {x : RegIdx} {s : State} (h : 15 < (s.getV x).toNat) :
    exec (.skp x) s = .next (s.raise .keyIndexFault) := by
  simp only [exec, execSkp, keyIndex_of_ge _ h]

theorem exec_sknp_of_gt {x : RegIdx} {s : State} (h : 15 < (s.getV x).toNat) :
    exec (.sknp x) s = .next (s.raise .keyIndexFault) := by
  simp only [exec, execSknp, keyIndex_of_ge _ h]

theorem exec_ldB_of_inRange {x : RegIdx} {s : State} (h : inRange (s.effAddr 0) 3 = true) :
    exec (.ldB x) s = .next { s with mem := s.mem.writeBytes (s.effAddr 0) (bcdDigits (s.getV x)) }.advance := if_pos h

theorem exec_ldB_of_not_inRange {x : RegIdx} {s : State} (h : ¬ inRange (s.effAddr 0) 3 = true) :
    exec (.ldB x) s = .next (s.raise .memFault) := if_neg h

theorem exec_stRegs_of_inRange {x : RegIdx} {s : State} (h : inRange (s.effAddr 0) (x.val + 1) = true) :
    exec (.stRegs x) s = .next { s with mem := s.mem.writeBytes (s.effAddr 0) (s.regsUpTo x) }.advance := if_pos h

theorem exec_stRegs_of_not_inRange {x : RegIdx} {s : State} (h : ¬ inRange (s.effAddr 0) (x.val + 1) = true) :
    exec (.stRegs x) s = .next (s.raise .memFault) := if_neg h

theorem exec_ldRegs_of_inRange {x : RegIdx} {s : State} (h : inRange (s.effAddr 0) (x.val + 1) = true) :
    exec (.ldRegs x) s =
      .next { s with v := loadRegsFrom s.v 0 (s.mem.readBytes (s.effAddr 0) (x.val + 1)) }.advance := if_pos h

theorem exec_ldRegs_of_not_inRange {x : RegIdx} {s : State} (h : ¬ inRange (s.effAddr 0) (x.val + 1) = true) :
    exec (.ldRegs x) s = .next (s.raise .memFault) := if_neg h

theorem ends_call (nnn : Addr12) (s : State) : Ends (.call nnn) s := by
  by_cases h : s.sp.val < 16
  · exact .completes (.pushed _ h) _ (exec_call_of_push nnn (State.push_eq s _ h))
  · exact .faults (.inl ⟨rfl, nnn, rfl⟩) (exec_call_of_full nnn (Nat.le_antisymm s.sp_le (Nat.not_lt.mp h)))

theorem ends_ret (s : State) : Ends .ret s := by
  by_cases h : s.sp.val = 0
  · exact .faults (.inr (.inl ⟨rfl, rfl⟩)) (exec_ret_of_empty h)
  · exact .completes (.popped h) _ (exec_ret_of_pop (State.pop_eq s h))

theorem ends_skp (x : RegIdx) (s : State) : Ends (.skp x) s := by
  by_cases h : (s.getV x).toNat < 16
  · exact .completes .nothing _ (exec_skp_of_lt h)
  · exact .faults (.inr (.inr (.inr ⟨rfl, .inl ⟨x, rfl⟩⟩))) (exec_skp_of_gt (Nat.not_lt.mp h))

theorem ends_sknp (x : RegIdx) (s : State) : Ends (.sknp x) s := by
  by_cases h : (s.getV x).toNat < 16
  · exact .completes .nothing _ (exec_sknp_of_lt h)
  · exact .faults (.inr (.inr (.inr ⟨rfl, .inr ⟨x, rfl⟩⟩))) (exec_sknp_of_gt (Nat.not_lt.mp h))

theorem ends_ldVxK (x : RegIdx) (s : State) : Ends (.ldVxK x) s := by
  cases hk : firstPressed s.key with
  | some k => exact .completes (.reg rfl _) _ (exec_ldVxK_of_some x hk)
  | none => exact .waits rfl hk (exec_ldVxK_of_none x hk)

theorem ends_drw (x y : RegIdx) (n : BitVec 4) (s : State) : Ends (.drw x y n) s := by
  by_cases hr : inRange (s.effAddr 0) n.toNat = true
  · exact .completes (.drawn _ _) _ (exec_drw_of_inRange hr)
  · exact .faults (.inr (.inr (.inl ⟨rfl, .inl ⟨x, y, n, rfl⟩⟩))) (exec_drw_of_not_inRange hr)

theorem ends_ldB (x : RegIdx) (s : State) : Ends (.ldB x) s := by
  by_cases hr : inRange (s.effAddr 0) 3 = true
  · have hfit : s.effAddr 0 + (bcdDigits (s.getV x)).length ≤ Config.memSize := (inRange_iff (by decide : 0 < 3)).mp hr
    exact .completes (.stored (.inl ⟨x, rfl⟩) hfit) _ (exec_ldB_of_inRange hr)
  · exact .faults (.inr (.inr (.inl ⟨rfl, .inr (.inl ⟨x, rfl⟩)⟩))) (exec_ldB_of_not_inRange hr)

theorem ends_stRegs (x : RegIdx) (s : State) : Ends (.stRegs x) s := by
  by_cases hr : inRange (s.effAddr 0) (x.val + 1) = true
  · have hfit : s.effAddr 0 + (s.regsUpTo x).length ≤ Config.memSize := by
      rw [State.regsUpTo_length]
      exact (inRange_iff (Nat.succ_pos _)).mp hr
    exact .completes (.stored (.inr ⟨x, rfl⟩) hfit) _ (exec_stRegs_of_inRange hr)
  · exact .faults (.inr (.inr (.inl ⟨rfl, .inr (.inr (.inl ⟨x, rfl⟩))⟩))) (exec_stRegs_of_not_inRange hr)

theorem ends_ldRegs (x : RegIdx) (s : State) : Ends (.ldRegs x) s := by
  by_cases hr : inRange (s.effAddr 0) (x.val + 1) = true
  · exact .completes (.loaded (Memory.readBytes_length _ _ _)) _ (exec_ldRegs_of_inRange hr)
  · exact .faults (.inr (.inr (.inl ⟨rfl, .inr (.inr (.inr ⟨x, rfl⟩))⟩))) (exec_ldRegs_of_not_inRange hr)

/-- Every instruction ends in one of the three ways in every state. -/
theorem exec_ends : ∀ (i : Instr) (s : State), Ends i s
  | .cls, _ => .completes .cleared _ rfl
  | .ret, s => ends_ret s
  | .call nnn, s => ends_call nnn s
  | .jp _, _ | .jpV0 _, _ | .seImm _ _, _ | .sneImm _ _, _ | .seReg _ _, _ | .sneReg _ _, _ =>
    .completes .nothing _ rfl
  | .ldImm _ _, _ | .addImm _ _, _ | .ldReg _ _, _ | .orReg _ _, _ | .andReg _ _, _ | .xorReg _ _, _
  | .rnd _ _, _ | .ldVxDt _, _ => .completes (.reg rfl _) _ rfl
  | .addReg _ y, _ => .completes (.flagged ⟨y, .inl rfl⟩ _ _) _ rfl
  | .sub _ y, _ => .completes (.flagged ⟨y, .inr (.inl rfl)⟩ _ _) _ rfl
  | .shr _ y, _ => .completes (.flagged ⟨y, .inr (.inr (.inl rfl))⟩ _ _) _ rfl
  | .subn _ y, _ => .completes (.flagged ⟨y, .inr (.inr (.inr (.inl rfl)))⟩ _ _) _ rfl
  | .shl _ y, _ => .completes (.flagged ⟨y, .inr (.inr (.inr (.inr rfl)))⟩ _ _) _ rfl
  | .ldI nnn, _ => .completes (.index (.inl ⟨nnn, rfl⟩) _) _ rfl
  | .addI x, _ => .completes (.index (.inr (.inl ⟨x, rfl⟩)) _) _ rfl
  | .ldF x, _ => .completes (.index (.inr (.inr ⟨x, rfl⟩)) _) _ rfl
  | .drw x y n, s => ends_drw x y n s
  | .skp x, s => ends_skp x s
  | .sknp x, s => ends_sknp x s
  | .ldDtVx _, _ => .completes .delayTimer _ rfl
  | .ldStVx _, _ => .completes .soundTimer _ rfl
  | .ldVxK x, s => ends_ldVxK x s
  | .ldB x, s => ends_ldB x s
  | .stRegs x, s => ends_stRegs x s
  | .ldRegs x, s => ends_ldRegs x s

/-- The states an instruction can answer, for a proof that starts from the state answered. -/
theorem exec_next_cases {i : Instr} {s t : State} (h : exec i s = .next t) :
    (∃ u target, Wrote s i u ∧ t = u.retire target) ∨ (∃ c, CanRaise i c ∧ t = s.raise c) ∨
      (∃ x, i = .ldVxK x ∧ firstPressed s.key = none ∧ t = s.await) := by
  cases exec_ends i s with
  | completes hu target he => exact .inl ⟨_, target, hu, (Host.Outcome.next.inj (he.symm.trans h)).symm⟩
  | faults hc he => exact .inr (.inl ⟨_, hc, (Host.Outcome.next.inj (he.symm.trans h)).symm⟩)
  | waits hi hkey he => exact .inr (.inr ⟨_, hi, hkey, (Host.Outcome.next.inj (he.symm.trans h)).symm⟩)

/-- Every instruction completes with a next state. -/
theorem exec_completes (i : Instr) (s : State) : ∃ t, exec i s = .next t := by
  cases exec_ends i s with
  | completes _ _ h => exact ⟨_, h⟩
  | faults _ h => exact ⟨_, h⟩
  | waits _ _ h => exact ⟨_, h⟩

/-! ## What no instruction writes -/

/-- The keypad, the control registers and the model's own fields are written by no instruction; pc and status only by
its end. -/
structure SameOutside (s u : State) : Prop where
  key : u.key = s.key
  opcode : u.opcode = s.opcode
  faultCause : u.faultCause = s.faultCause
  report : u.report = s.report
  rand : u.rand = s.rand
  launch : u.launch = s.launch
  pending : u.pending = s.pending
  draws : u.draws = s.draws

/-- None of the pieces an instruction writes is one of these fields. -/
theorem Wrote.sameOutside {i : Instr} {s u : State} (h : Wrote s i u) : SameOutside s u := by
  cases h <;> constructor <;> rfl

end Sys2Proof.Machine
end

section
/-! SUPPORT. The STEP command and the invariant: what a STEP does around the instruction it runs, and that every command
keeps memory canonical, fault_cause in step with Halted, the launch premises, and an FX0A under a waiting core
(10_state.md section 6; 40_step_cycle.md R94 to R102; 70_reset_and_hazards.md R235). -/

namespace Sys2Proof.Machine

/-! ## What a STEP can do (R94) -/

/-- A STEP has begun and its fetch has latched the opcode at pc (R94, R95). -/
def State.fetched (s : State) (rand : Byte) : State := { s.beginStep rand with opcode := s.fetchOpcode }

/-- A STEP with pc above 0xFFE raises FetchFault (R95). -/
theorem stepCommand_of_pc_gt {s : State} (rand : Byte) (hrun : s.status ≠ .halted) (hpc : 0xFFE < s.pc.toNat) :
    stepCommand rand s = .next ((s.beginStep rand).raise .fetchFault).endStep := by
  have hfetch : ¬ (s.beginStep rand).fetchOk = true :=
    fun h => Nat.not_le.mpr hpc ((State.fetchOk_iff (s.beginStep rand)).mp h)
  rw [stepCommand_of_not_halted rand hrun]
  exact congrArg endStepResult (if_neg hfetch)

/-- A STEP of a halted core only clears the report (R101, R208). -/
theorem stepCommand_of_halted {s : State} (rand : Byte) (h : s.status = .halted) :
    stepCommand rand s = .next s.quiet := if_pos h

/-- The states a STEP of a core that is not halted can answer: a fetch fault, a decode miss, or what the instruction at
pc answers; each between the begin and the end of the STEP. -/
theorem stepCommand_next_cases {s t : State} {rand : Byte} (hrun : s.status ≠ .halted)
    (h : stepCommand rand s = .next t) :
    (0xFFE < s.pc.toNat ∧ t = ((s.beginStep rand).raise .fetchFault).endStep) ∨
      (s.pc.toNat ≤ 0xFFE ∧ decode s.fetchOpcode = none ∧
        t = ((s.fetched rand).decodeMiss s.fetchOpcode).endStep) ∨
      (s.pc.toNat ≤ 0xFFE ∧ ∃ i u, decode s.fetchOpcode = some i ∧ exec i (s.fetched rand) = .next u ∧
        t = u.endStep) := by
  rcases Nat.lt_or_ge 0xFFE s.pc.toNat with hpc | hpc
  · rw [stepCommand_of_pc_gt rand hrun hpc] at h
    exact .inl ⟨hpc, (Host.Outcome.next.inj h).symm⟩
  · cases hdec : decode s.fetchOpcode with
    | none =>
      rw [stepCommand_of_decode_none rand hrun hpc hdec] at h
      exact .inr (.inl ⟨hpc, rfl, (Host.Outcome.next.inj h).symm⟩)
    | some i =>
      rw [stepCommand_of_decode_some rand hrun hpc hdec] at h
      obtain ⟨u, hu, rfl⟩ := endStepResult_next h
      exact .inr (.inr ⟨hpc, i, u, rfl, hu, rfl⟩)

/-- Every STEP completes with a next state. -/
theorem stepCommand_completes (rand : Byte) (s : State) : ∃ t, stepCommand rand s = .next t := by
  by_cases hrun : s.status = .halted
  · exact ⟨_, stepCommand_of_halted rand hrun⟩
  · rw [stepCommand_of_not_halted rand hrun]
    obtain ⟨-, h⟩ | ⟨-, -, h⟩ | ⟨i, -, -, h⟩ := fetchAndExecute_cases (s.beginStep rand)
    · exact ⟨_, congrArg endStepResult h⟩
    · exact ⟨_, congrArg endStepResult h⟩
    · obtain ⟨u, hu⟩ := exec_completes i { s.beginStep rand with opcode := (s.beginStep rand).fetchOpcode }
      exact ⟨u.endStep, congrArg endStepResult (h.trans hu)⟩

/-! ## The invariant -/

/-- What an instruction stores lies in memory, so memory stays canonical. -/
theorem Wrote.mem_wf {i : Instr} {s u : State} (h : Wrote s i u) (hwf : s.mem.wf = true) : u.mem.wf = true := by
  cases h with
  | stored _ hfit => exact Memory.wf_writeBytes _ s.mem _ hwf hfit
  | _ => exact hwf

/-- An instruction raises a fault that has a code other than 0. -/
theorem CanRaise.ne_none {i : Instr} {c : FaultCause} (h : CanRaise i c) : c ≠ .none := by
  obtain ⟨rfl, -⟩ | ⟨rfl, -⟩ | ⟨rfl, -⟩ | ⟨rfl, -⟩ := h <;> decide

/-- The invariant does not look at the host's pending commands and the count of rand bytes. -/
theorem State.inv_withHost (s : State) (pending : List Command) (draws : Nat) :
    State.Inv { s with pending := pending, draws := draws } ↔ s.Inv := Iff.rfl

theorem State.reset_inv : State.reset.Inv :=
  ⟨Memory.wf_reset, by decide, fun _ => ⟨rfl, rfl, rfl, rfl, rfl, rfl, rfl, rfl, rfl⟩, nofun⟩

/-- Outside the launch the launch premises say nothing, and a running core is not waiting: what is left to show. -/
theorem State.inv_of_running {s : State} (hwf : s.mem.wf = true) (hcause : s.faultCause = .none)
    (hstatus : s.status = .running) (hlaunch : s.launch = .stepped) : s.Inv := by
  refine ⟨hwf, ?_, fun h => absurd hlaunch h, ?_⟩
  · simp [hcause, hstatus]
  · simp [hstatus]

/-- After a fault the launch is over and the core is not waiting: what is left to show. -/
theorem State.inv_of_halted {s : State} (hwf : s.mem.wf = true) (hcause : s.faultCause ≠ .none)
    (hstatus : s.status = .halted) (hlaunch : s.launch = .stepped) : s.Inv := by
  refine ⟨hwf, ?_, fun h => absurd hlaunch h, ?_⟩
  · simp [hcause, hstatus]
  · simp [hstatus]

/-- Every STEP keeps the invariant. -/
theorem stepCommand_keeps_inv {s t : State} {rand : Byte} (hinv : s.Inv) (h : stepCommand rand s = .next t) :
    t.Inv := by
  by_cases hrun : s.status = .halted
  · cases (stepCommand_of_halted rand hrun).symm.trans h
    exact hinv
  · obtain ⟨hwf, hhalted, -, -⟩ := hinv
    have hnone : s.faultCause = .none := by_contra fun hc => hrun (hhalted.mp hc)
    obtain ⟨-, rfl⟩ | ⟨-, -, rfl⟩ | ⟨hpc, i, u, hdec, hu, rfl⟩ := stepCommand_next_cases hrun h
    · exact State.inv_of_halted hwf (by simp) rfl rfl
    · exact State.inv_of_running hwf hnone rfl rfl
    · obtain ⟨v, target, hv, rfl⟩ | ⟨c, hc, rfl⟩ | ⟨x, rfl, -, rfl⟩ := exec_next_cases hu
      · exact State.inv_of_running (hv.mem_wf hwf) (hv.sameOutside.faultCause.trans hnone) rfl
          hv.sameOutside.launch
      · exact State.inv_of_halted hwf hc.ne_none rfl rfl
      · exact ⟨hwf, by simp [hnone, State.fetched], fun hl => absurd rfl hl,
          fun _ => ⟨(State.fetchOk_iff s).mpr hpc, x, hdec⟩⟩

/-- LOAD keeps the invariant: it writes in the launch only, where the core is running, and inside memory (R92). -/
theorem loadCommand_keeps_inv {s t : State} {bytes : List Byte} (hinv : s.Inv) (h : loadCommand bytes s = .next t) :
    t.Inv := by
  obtain ⟨-, he⟩ | ⟨-, -, he⟩ | ⟨-, -, -, he⟩ | ⟨-, hfresh, hlen, he⟩ := loadCommand_cases bytes s
  · cases he.symm.trans h
    exact hinv
  · exact nomatch he.symm.trans h
  · cases he.symm.trans h
    exact hinv
  · cases he.symm.trans h
    obtain ⟨hwf, hhalted, hlaunch, -⟩ := hinv
    have hin : s.InLaunch := hlaunch (by simp [hfresh])
    obtain ⟨-, -, -, -, -, -, -, -, hrunning⟩ := id hin
    have hfit : Config.progBase + bytes.length ≤ Config.memSize := by
      simp only [Config.maxProg, Config.memSize, Config.progBase] at hlen ⊢
      omega
    exact ⟨Memory.wf_writeBytes bytes s.mem _ hwf hfit, hhalted, fun _ => hin,
      fun hawait => nomatch hrunning.symm.trans hawait⟩

/-- TICK keeps the invariant: a timer at 0 stays at 0 (R193). -/
theorem tickCommand_keeps_inv {s t : State} (hinv : s.Inv) (h : tickCommand s = .next t) : t.Inv := by
  obtain ⟨-, he⟩ | ⟨-, he⟩ := tickCommand_cases s
  · cases he.symm.trans h
    exact hinv
  · cases he.symm.trans h
    obtain ⟨hwf, hhalted, hlaunch, hwaits⟩ := hinv
    refine ⟨hwf, hhalted, fun hl => ?_, hwaits⟩
    obtain ⟨hv, hi, hpc, hsp, hstack, hfb, hdt, hst, hstatus⟩ := hlaunch hl
    exact ⟨hv, hi, hpc, hsp, hstack, hfb, if_pos hdt, if_pos hst, hstatus⟩

/-- Every command keeps the invariant. -/
theorem runCommand_keeps_inv {s t : State} {c : Command} (hinv : s.Inv) (h : runCommand c s = .next t) : t.Inv := by
  cases c with
  | reset =>
    cases h
    exact (State.inv_withHost State.reset s.pending s.draws).mpr State.reset_inv
  | load bytes => exact loadCommand_keeps_inv hinv h
  | key k pressed =>
    cases h
    exact hinv
  | step rand => exact stepCommand_keeps_inv hinv h
  | tick => exact tickCommand_keeps_inv hinv h

/-- Settles O13: a step is a command on a state that differs in the host's fields only, and every command keeps the
invariant. -/
theorem everyStepKeepsInv : Obligations.EveryStepKeepsInv := fun s t hinv h => by
  obtain ⟨c, rest, -, he⟩ | ⟨-, he⟩ := step_cases s
  · exact runCommand_keeps_inv (s := { s with pending := rest }) hinv (he.symm.trans h)
  · exact stepCommand_keeps_inv (s := { s with draws := s.draws + 1 }) hinv (he.symm.trans h)

/-- Settles O14: reset memory lists no byte, and the core runs. -/
theorem resetHasInv : Obligations.ResetHasInv := State.reset_inv

/-! ## Every command completes -/

/-- Every command answers a next state, but a LOAD outside the launch, which is refused (93 U12). -/
theorem runCommand_completes_or_refuses (c : Command) (s : State) : (∃ t, runCommand c s = .next t) ∨
    (∃ bytes, c = .load bytes ∧ s.status ≠ .halted ∧ s.launch ≠ .fresh ∧
      runCommand c s = .refused .loadOutsideLaunch) := by
  cases c with
  | reset => exact .inl ⟨_, rfl⟩
  | load bytes =>
    obtain ⟨-, he⟩ | ⟨hrun, hlaunch, he⟩ | ⟨-, -, -, he⟩ | ⟨-, -, -, he⟩ := loadCommand_cases bytes s
    · exact .inl ⟨_, he⟩
    · exact .inr ⟨bytes, rfl, hrun, hlaunch, he⟩
    · exact .inl ⟨_, he⟩
    · exact .inl ⟨_, he⟩
  | key k pressed => exact .inl ⟨_, rfl⟩
  | step rand => exact .inl (stepCommand_completes rand s)
  | tick =>
    obtain ⟨-, he⟩ | ⟨-, he⟩ := tickCommand_cases s
    · exact .inl ⟨_, he⟩
    · exact .inl ⟨_, he⟩

/-- With nothing pending a step is a STEP with a free rand byte. -/
theorem step_nil (s : State) (h : s.pending = []) :
    step s = stepCommand (Config.freeRand s.draws) { s with draws := s.draws + 1 } := by
  rw [step, takeCommand_nil s h]
  rfl

/-- Settles O12: every instruction ends in a next state, and of the commands LOAD alone has a refusal. -/
theorem everyCommandCompletes : Obligations.EveryCommandCompletes := by
  refine ⟨exec_completes, runCommand_completes_or_refuses, fun s h => ?_⟩
  rw [step_nil s h]
  exact stepCommand_completes _ _

/-- Settles O7: the STEP runs what it decodes, and the machine takes the oldest pending command or that STEP. -/
theorem stepRunsTheDecodedInstruction : Obligations.StepRunsTheDecodedInstruction := fun s _ rand hrun hpc hdec =>
  ⟨stepCommand_of_decode_some rand hrun hpc hdec, fun rest h => step_cons s (.step rand) rest h, step_nil s⟩

/-! ## Fetch, faults and status of a STEP -/

/-- No instruction writes the opcode latch. -/
theorem exec_opcode {i : Instr} {s t : State} (h : exec i s = .next t) : t.opcode = s.opcode := by
  obtain ⟨u, target, hu, rfl⟩ | ⟨c, -, rfl⟩ | ⟨x, -, -, rfl⟩ := exec_next_cases h
  · exact hu.sameOutside.opcode
  · rfl
  · rfl

/-- Two bytes as an opcode: the first shifted by a byte, or the second (R52). -/
theorem opcodeOfBytes_eq (hi lo : Byte) : opcodeOfBytes hi lo = (zext16 hi <<< 8) ||| zext16 lo := by
  rw [opcodeOfBytes, BitVec.append_def, BitVec.shiftLeftZeroExtend_eq, BitVec.setWidth'_eq]
  rfl

/-- A part that did not change may be dropped from a frame. -/
theorem OnlyChanges.drop {s t : State} {q : Part} {c : Part → Prop} (h : OnlyChanges s t (fun p => p = q ∨ c p))
    (hq : q.Same s t) : OnlyChanges s t c := fun p hp => by
  by_cases hpq : p = q
  · exact hpq ▸ hq
  · exact h p fun hc => hc.elim hpq hp

/-- A fetch fault changes status and fault_cause, and the model's own report, rand and launch; the latch keeps the
opcode it held (R95, R206). -/
theorem stepCommand_fetchFault_frame (s : State) (rand : Byte) :
    OnlyChanges s ((s.beginStep rand).raise .fetchFault).endStep
      (fun p => p = .report ∨ p = .rand ∨ p = .launch ∨ p = .status ∨ p = .faultCause) :=
  (State.endStep_frame rand s.opcode (State.raise_frame (s.beginStep rand) .fetchFault)).drop rfl

/-- Settles O8: no instruction writes the latch, which the fetch loads with the two bytes at pc; above 0xFFE the STEP is
a fetch fault. -/
theorem fetchIsBigEndianOrFaults : Obligations.FetchIsBigEndianOrFaults := by
  refine fun s rand hrun => ⟨fun hpc => ?_, fun hpc => ?_⟩
  · obtain ⟨t, ht⟩ := stepCommand_completes rand s
    refine ⟨t, ht, ?_⟩
    rw [← opcodeOfBytes_eq]
    obtain ⟨hgt, -⟩ | ⟨-, -, rfl⟩ | ⟨-, i, u, -, hu, rfl⟩ := stepCommand_next_cases hrun ht
    · omega
    · rfl
    · exact exec_opcode hu
  · exact ⟨_, stepCommand_of_pc_gt rand hrun hpc, rfl, rfl,
      (stepCommand_fetchFault_frame s rand).mono fun p hp => by tauto⟩

/-- An instruction that halts a core which was not halted has raised one of its faults. -/
theorem exec_halted {i : Instr} {s t : State} (h : exec i s = .next t) (ht : t.status = .halted) :
    ∃ c, CanRaise i c ∧ t = s.raise c := by
  obtain ⟨u, target, -, rfl⟩ | hc | ⟨x, -, -, rfl⟩ := exec_next_cases h
  · exact nomatch ht
  · exact hc
  · exact nomatch ht

/-- Settles O23: a STEP that halts is a fetch fault or ends in a fault of the instruction it fetched. -/
theorem faultsInsideStep : Obligations.FaultsInsideStep := by
  intro s t rand hrun h ht
  obtain ⟨hpc, rfl⟩ | ⟨-, -, rfl⟩ | ⟨hpc, i, u, hdec, hu, rfl⟩ := stepCommand_next_cases hrun h
  · exact ⟨(stepCommand_fetchFault_frame s rand).mono fun p hp => by tauto, .inl ⟨hpc, rfl, rfl⟩⟩
  · exact nomatch ht
  · obtain ⟨c, hc, rfl⟩ := exec_halted hu ht
    exact ⟨(State.endStep_frame rand s.fetchOpcode (State.raise_frame _ c)).mono fun p hp => by tauto,
      .inr ⟨hpc, rfl, i, hdec, hc⟩⟩

/-- An instruction leaves the core waiting exactly when it is FX0A and no key is pressed (R100, R182). -/
theorem exec_status_awaitKey_iff {i : Instr} {s t : State} (h : exec i s = .next t) :
    t.status = .awaitKey ↔ (∃ x, i = .ldVxK x) ∧ firstPressed s.key = none := by
  constructor
  · intro ht
    obtain ⟨u, target, -, rfl⟩ | ⟨c, -, rfl⟩ | ⟨x, hi, hkey, -⟩ := exec_next_cases h
    · exact nomatch ht
    · exact nomatch ht
    · exact ⟨⟨x, hi⟩, hkey⟩
  · rintro ⟨⟨x, rfl⟩, hkey⟩
    cases (exec_ldVxK_of_none x hkey).symm.trans h
    rfl

/-- A STEP that does not halt leaves the core waiting exactly when it fetched an FX0A and no key is pressed. -/
theorem stepCommand_status_awaitKey_iff {s t : State} {rand : Byte} (hrun : s.status ≠ .halted)
    (h : stepCommand rand s = .next t) (ht : t.status ≠ .halted) :
    t.status = .awaitKey ↔ (∃ x, decode s.fetchOpcode = some (.ldVxK x)) ∧ ∀ k : KeyIdx, s.key[k] = false := by
  obtain ⟨-, rfl⟩ | ⟨-, hdec, rfl⟩ | ⟨-, i, u, hdec, hu, rfl⟩ := stepCommand_next_cases hrun h
  · exact absurd rfl ht
  · simp [hdec]
  · rw [hdec, ← firstPressed_none]
    simp only [Option.some.injEq]
    have hu' := exec_status_awaitKey_iff hu
    exact hu'

/-- Settles O24: a status that is not Halted is AwaitKey or Running. -/
theorem statusAfterStep : Obligations.StatusAfterStep := by
  intro s t rand hrun h ht
  have hawait := stepCommand_status_awaitKey_iff hrun h ht
  refine ⟨hawait, ?_⟩
  rw [← hawait]
  cases hs : t.status with
  | running => decide
  | awaitKey => decide
  | halted => exact absurd hs ht

end Sys2Proof.Machine
end

section
/-! SUPPORT. Who writes what: the index register, the stack, memory, VF, the keypad and the timers
(10_state.md sections 1 to 4), and that the inputs of a STEP are read by no instruction but those that name them. -/

namespace Sys2Proof.Machine

/-! ## The writers of one piece -/

/-- The index register is written by the three instructions that name it only (R22). -/
theorem Wrote.i_same {i : Instr} {s u : State} (h : Wrote s i u)
    (hi : ¬ ((∃ nnn, i = .ldI nnn) ∨ (∃ x, i = .addI x) ∨ ∃ x, i = .ldF x)) : u.i = s.i := by
  cases h with
  | index hindex w => exact absurd hindex hi
  | _ => rfl

/-- Settles O15: of what an instruction can write, the index register is written by the three alone. -/
theorem onlyIndexInstructionsWriteI : Obligations.OnlyIndexInstructionsWriteI := by
  intro i s t h hne
  by_contra hi
  obtain ⟨u, target, hu, rfl⟩ | ⟨c, -, rfl⟩ | ⟨x, -, -, rfl⟩ := exec_next_cases h
  · exact hne (hu.i_same hi)
  · exact hne rfl
  · exact hne rfl

/-- The stack changes by a push or a pop only (R24). -/
theorem Wrote.stack_cases {i : Instr} {s u : State} (h : Wrote s i u) :
    (∃ nnn, i = .call nnn ∧ u.sp.val = s.sp.val + 1) ∨ (i = .ret ∧ u.sp.val + 1 = s.sp.val ∧ u.stack = s.stack) ∨
      (u.stack = s.stack ∧ u.sp = s.sp) := by
  cases h with
  | pushed w hlt => exact .inl ⟨_, rfl, rfl⟩
  | popped hne => exact .inr (.inl ⟨rfl, Nat.sub_add_cancel (Nat.pos_of_ne_zero hne), rfl⟩)
  | _ => exact .inr (.inr ⟨rfl, rfl⟩)

/-- Settles O16: of what an instruction can write, a push and a pop alone touch the stack or sp. -/
theorem onlyCallAndReturnTouchTheStack : Obligations.OnlyCallAndReturnTouchTheStack := by
  intro i s t h
  obtain ⟨u, target, hu, rfl⟩ | ⟨c, -, rfl⟩ | ⟨x, -, -, rfl⟩ := exec_next_cases h
  · obtain ⟨nnn, hi, hsp⟩ | ⟨hi, hsp, hstack⟩ | ⟨hstack, hsp⟩ := hu.stack_cases
    · exact ⟨fun _ => ⟨nnn, hi⟩, fun _ => .inl ⟨nnn, hi, hsp⟩⟩
    · exact ⟨fun hne => absurd hstack hne, fun _ => .inr ⟨hi, hsp⟩⟩
    · exact ⟨fun hne => absurd hstack hne, fun hne => absurd hsp hne⟩
  · exact ⟨fun hne => absurd rfl hne, fun hne => absurd rfl hne⟩
  · exact ⟨fun hne => absurd rfl hne, fun hne => absurd rfl hne⟩

/-- Memory is written by the two stores only (R25). -/
theorem Wrote.mem_same {i : Instr} {s u : State} (h : Wrote s i u)
    (hi : ¬ ((∃ x, i = .ldB x) ∨ ∃ x, i = .stRegs x)) : u.mem = s.mem := by
  cases h with
  | stored hstore _ => exact absurd hstore hi
  | _ => rfl

/-- KEY leaves memory alone. -/
theorem runCommand_key_mem {s t : State} {k : KeyIdx} {pressed : Bool} (h : runCommand (.key k pressed) s = .next t) :
    t.mem = s.mem := by
  cases h
  rfl

/-- TICK leaves memory alone. -/
theorem runCommand_tick_mem {s t : State} (h : runCommand .tick s = .next t) : t.mem = s.mem := by
  change tickCommand s = .next t at h
  obtain ⟨-, he⟩ | ⟨-, he⟩ := tickCommand_cases s
  · cases he.symm.trans h
    rfl
  · cases he.symm.trans h
    rfl

/-- Settles O17: of what an instruction can write, a store alone touches memory. -/
theorem onlyStoresWriteMemory : Obligations.OnlyStoresWriteMemory := by
  refine ⟨fun i s t h hne => ?_, fun s t k pressed h => h.elim runCommand_key_mem runCommand_tick_mem⟩
  by_contra hi
  obtain ⟨u, target, hu, rfl⟩ | ⟨c, -, rfl⟩ | ⟨x, -, -, rfl⟩ := exec_next_cases h
  · exact hne (hu.mem_same hi)
  · exact hne rfl
  · exact hne rfl

/-! ## VF (R21) -/

/-- VF is written by the flag instructions, by DXYN, and by a register write or a range load that reaches the X field
0xF (R21). -/
theorem Wrote.vf_same {i : Instr} {s u : State} (h : Wrote s i u) (hflag : ∀ x, ¬ IsFlagInstr i x)
    (hdrw : ∀ x y n, i ≠ .drw x y n) (hx : xField i ≠ some regVF) : u.getV regVF = s.getV regVF := by
  cases h with
  | reg hreg b => exact State.getV_setV_ne s b fun e => hx (e ▸ hreg)
  | flagged hi _ _ => exact absurd hi (hflag _)
  | drawn f hit => exact absurd rfl (hdrw _ _ _)
  | @loaded x bs hlen =>
    have hlt : bs.length ≤ 15 := by
      have hne : x ≠ regVF := fun e => hx (congrArg some e)
      have h16 := regIdx_lt x
      have : x.val ≠ 15 := fun e => hne (Fin.ext e)
      omega
    show (loadRegsFrom s.v 0 bs)[15] = s.v[15]
    rw [loadRegsFrom_getElem]
    simp [List.getElem?_eq_none hlt]
  | _ => rfl

theorem flagByte_cases (b : Bool) : flagByte b = 0 ∨ flagByte b = 1 := by
  cases b
  · exact .inl rfl
  · exact .inr rfl

/-- Each of the five flag instructions answers one flag, 0 or 1, and one result (R130, R143). -/
theorem exec_flagInstr {i : Instr} {x : RegIdx} (h : IsFlagInstr i x) (s : State) :
    ∃ (flag : Bool) (result : Byte), exec i s = .next (s.setFlagThenResult x (flagByte flag) result).advance := by
  obtain ⟨y, rfl | rfl | rfl | rfl | rfl⟩ := h <;> exact ⟨_, _, rfl⟩

/-- VF after flag and result, where it is not the destination (R130). -/
theorem State.getV_setFlagThenResult_vf (s : State) {x : RegIdx} (f b : Byte) (hx : x ≠ regVF) :
    (s.setFlagThenResult x f b).getV regVF = f := by
  rw [State.getV_setFlagThenResult, if_neg hx.symm, if_pos rfl]

/-- A DXYN that does not fault passed the range check and leaves memory, I and every register but VF (R171). -/
theorem exec_drw_completes {x y : RegIdx} {n : BitVec 4} {s t : State} (h : exec (.drw x y n) s = .next t)
    (ht : t.status ≠ .halted) : inRange (s.effAddr 0) n.toNat = true ∧ t.i = s.i ∧ t.mem = s.mem ∧
      ∀ r, r ≠ regVF → t.getV r = s.getV r := by
  by_cases hr : inRange (s.effAddr 0) n.toNat = true
  · cases (exec_drw_of_inRange hr).symm.trans h
    exact ⟨hr, rfl, rfl, fun r hne => State.getV_setV_ne _ _ hne⟩
  · cases (exec_drw_of_not_inRange hr).symm.trans h
    exact absurd rfl ht

/-- What a DXYN in range answers: the drawing, and the collision in VF (R171). -/
theorem exec_drw_answer {x y : RegIdx} {n : BitVec 4} {s t : State} (hr : inRange (s.effAddr 0) n.toNat = true)
    (h : exec (.drw x y n) s = .next t) : t.fb = (s.drawn x y n).fb ∧ t.getV regVF = flagByte (s.drawn x y n).hit := by
  cases (exec_drw_of_inRange hr).symm.trans h
  exact ⟨rfl, State.getV_setV_same _ _ _⟩

/-- Settles O18: VF is written by a flag instruction, by DXYN, or where VX is VF, and the flag is a byte of one bit. -/
theorem vfWriters : Obligations.VfWriters := by
  refine ⟨fun i s t h hne => ?_, fun i x y s t hx hi h => ?_, fun x y n s t h ht => ?_, State.reset_getV regVF⟩
  · by_contra hi
    obtain ⟨hflag, hrest⟩ := not_or.mp hi
    obtain ⟨hdrw, hxf⟩ := not_or.mp hrest
    obtain ⟨u, target, hu, rfl⟩ | ⟨c, -, rfl⟩ | ⟨x, -, -, rfl⟩ := exec_next_cases h
    · exact hne (hu.vf_same (fun x hx => hflag ⟨x, hx⟩) (fun x y n e => hdrw ⟨x, y, n, e⟩) hxf)
    · exact hne rfl
    · exact hne rfl
  · obtain ⟨flag, result, he⟩ := exec_flagInstr ⟨y, hi⟩ s
    cases he.symm.trans h
    rw [State.advance_getV, State.getV_setFlagThenResult_vf s _ _ hx]
    exact flagByte_cases flag
  · obtain ⟨hr, -⟩ := exec_drw_completes h ht
    rw [(exec_drw_answer hr h).2]
    exact flagByte_cases _

end Sys2Proof.Machine
end

section
/-! SUPPORT. The inputs of the host: the keypad, the sound timer and the rand byte are read by no instruction but those
that name them, and the commands KEY, TICK and RESET write the keypad and the timers (10_state.md sections 3 and 4;
40_step_cycle.md R102; 46_timers.md R193). -/

namespace Sys2Proof.Machine

/-! ## Independence from the inputs -/

/-- A change of the inputs: what the keypad, the sound timer and the rand byte become, where they change. -/
structure InputChange where
  key : Option (Vector Bool Config.nkeys) := none
  st : Option Byte := none
  rand : Option Byte := none

/-- The state with its inputs changed. -/
def State.changeInputs (s : State) (f : InputChange) : State :=
  { s with key := f.key.getD s.key, st := f.st.getD s.st, rand := f.rand.getD s.rand }

@[simp] theorem State.getV_changeInputs (s : State) (f : InputChange) (r : RegIdx) :
    (s.changeInputs f).getV r = s.getV r := rfl

@[simp] theorem State.pcAfter_changeInputs (s : State) (f : InputChange) (n : Nat) :
    (s.changeInputs f).pcAfter n = s.pcAfter n := rfl

@[simp] theorem State.key_changeInputs (s : State) (f : InputChange) : (s.changeInputs f).key = f.key.getD s.key :=
  rfl

@[simp] theorem State.rand_changeInputs (s : State) (f : InputChange) : (s.changeInputs f).rand = f.rand.getD s.rand :=
  rfl

/-- The push neither reads nor writes an input. -/
theorem State.push_changeInputs (s : State) (f : InputChange) (w : Word) :
    (s.changeInputs f).push w = (s.push w).map (·.changeInputs f) := by
  symm
  exact apply_dite (Option.map fun t : State => t.changeInputs f) _ _ _

/-- The pop neither reads nor writes an input. -/
theorem State.pop_changeInputs (s : State) (f : InputChange) :
    (s.changeInputs f).pop = s.pop.map (Prod.map id (·.changeInputs f)) := by
  symm
  exact apply_dite (Option.map (Prod.map id fun t : State => t.changeInputs f)) _ _ _

/-- The instructions that read the keypad (R180 to R182). -/
def ReadsKeypad (i : Instr) : Prop := ∃ x, i = .skp x ∨ i = .sknp x ∨ i = .ldVxK x

/-- An instruction answers the same whatever its inputs are changed to, where the change leaves out the keypad
of an instruction that reads it, the rand byte of CXNN, and the sound timer of FX18, which writes it. -/
theorem exec_changeInputs {i : Instr} {s : State} {f : InputChange} (hkey : ReadsKeypad i → f.key = none)
    (hrand : ∀ x nn, i = .rnd x nn → f.rand = none) (hst : ∀ x, i = .ldStVx x → f.st = none) :
    exec i (s.changeInputs f) = mapNext (·.changeInputs f) (exec i s) := by
  cases i with
  | ldStVx x =>
    have hout : State.changeInputs { s with st := s.getV x }.advance f =
        { s.changeInputs f with st := f.st.getD (s.getV x) }.advance := rfl
    rw [hst x rfl, Option.getD_none] at hout
    exact congrArg Host.Outcome.next hout.symm
  | rnd x nn =>
    simp only [exec_rnd, State.rand_changeInputs, hrand x nn rfl, Option.getD_none]
    rfl
  | call nnn =>
    simp only [exec, execCall, State.pcAfter_changeInputs, State.push_changeInputs]
    cases s.push (s.pcAfter 1) <;> rfl
  | ret =>
    simp only [exec, execRet, State.pop_changeInputs]
    cases s.pop <;> rfl
  | skp x =>
    simp only [exec, execSkp, State.getV_changeInputs, State.key_changeInputs, hkey ⟨x, .inl rfl⟩,
      Option.getD_none]
    cases keyIndex (s.getV x) <;> rfl
  | sknp x =>
    simp only [exec, execSknp, State.getV_changeInputs, State.key_changeInputs, hkey ⟨x, .inr (.inl rfl)⟩,
      Option.getD_none]
    cases keyIndex (s.getV x) <;> rfl
  | ldVxK x =>
    simp only [exec, execLdVxK, State.key_changeInputs, hkey ⟨x, .inr (.inr rfl)⟩,
      Option.getD_none]
    cases firstPressed s.key <;> rfl
  | drw x y n =>
    symm
    exact apply_ite (mapNext (·.changeInputs f)) _ _ _
  | ldB x =>
    symm
    exact apply_ite (mapNext (·.changeInputs f)) _ _ _
  | stRegs x =>
    symm
    exact apply_ite (mapNext (·.changeInputs f)) _ _ _
  | ldRegs x =>
    symm
    exact apply_ite (mapNext (·.changeInputs f)) _ _ _
  | _ => rfl

/-- Settles O22: CXNN alone reads the rand byte. -/
theorem randReadOnlyByRnd : Obligations.RandReadOnlyByRnd := fun _ _ r hi =>
  exec_changeInputs (f := { rand := some r }) (fun _ => rfl) (fun x nn e => absurd e (hi x nn)) fun _ _ => rfl

/-! ## The keypad (R27) -/

/-- No instruction writes the keypad. -/
theorem exec_key {i : Instr} {s t : State} (h : exec i s = .next t) : t.key = s.key := by
  obtain ⟨u, target, hu, rfl⟩ | ⟨c, -, rfl⟩ | ⟨x, -, -, rfl⟩ := exec_next_cases h
  · exact hu.sameOutside.key
  · rfl
  · rfl

/-- No STEP writes the keypad. -/
theorem stepCommand_key {s t : State} {rand : Byte} (h : stepCommand rand s = .next t) : t.key = s.key := by
  by_cases hrun : s.status = .halted
  · cases (stepCommand_of_halted rand hrun).symm.trans h
    rfl
  · obtain ⟨-, rfl⟩ | ⟨-, -, rfl⟩ | ⟨-, i, u, -, hu, rfl⟩ := stepCommand_next_cases hrun h
    · rfl
    · rfl
    · exact (exec_key hu : u.key = (s.fetched rand).key)

/-- A frame with the keys outside what it lets change leaves the keypad as it was. -/
theorem OnlyChanges.key_same {s t : State} {c : Part → Prop} (h : OnlyChanges s t c) (hkey : ∀ k, ¬ c (.key k)) :
    t.key = s.key := Vector.ext fun k hk => h (.key ⟨k, hk⟩) (hkey _)

/-- No command but RESET and KEY writes the keypad. -/
theorem runCommand_key_same {s t : State} {c : Command} (h : runCommand c s = .next t) (hreset : c ≠ .reset)
    (hkey : ∀ k b, c ≠ .key k b) : t.key = s.key := by
  cases c with
  | reset => exact absurd rfl hreset
  | load bytes => exact (loadCommand_frame h).key_same (by simp)
  | key k b => exact absurd rfl (hkey k b)
  | step rand => exact stepCommand_key h
  | tick => exact (tickCommand_frame h).key_same (by simp)

/-- KEY answers the state with its key set and no report (R93). -/
theorem runCommand_key (s : State) (k : KeyIdx) (pressed : Bool) :
    runCommand (.key k pressed) s = .next { s.quiet with key := s.key.set k.val pressed k.isLt } := rfl

/-- KEY leaves its key at the level it names, and no report. -/
theorem keyCommand_effect (s : State) (k : KeyIdx) (pressed : Bool) :
    ∃ t, runCommand (.key k pressed) s = .next t ∧ t.key[k] = pressed ∧ t.report = none ∧
      OnlyChanges s t (fun p => p = .key k ∨ p = .report) :=
  ⟨_, runCommand_key s k pressed, Vector.getElem_set_self k.isLt, rfl, keyCommand_frame (runCommand_key s k pressed)⟩

/-- Settles O29: KEY sets its key in every status. -/
theorem keySetsItsLevel : Obligations.KeySetsItsLevel := keyCommand_effect

/-- Settles O20: the three instructions that test keys are all that read the keypad, and KEY's frame is its key. -/
theorem keypadWriters : Obligations.KeypadWriters := by
  refine ⟨fun _ _ _ => exec_key, fun _ _ _ => runCommand_key_same, fun s k b => ?_,
    fun i s keys hskp hsknp hldVxK => ?_, State.reset_key⟩
  · obtain ⟨t, ht, hk, -, hframe⟩ := keyCommand_effect s k b
    exact ⟨t, ht, hk, fun j hj => hframe (.key j) (by simpa using hj)⟩
  · have hreads : ¬ ReadsKeypad i := fun ⟨x, hx⟩ => hx.elim (hskp x) fun hx => hx.elim (hsknp x) (hldVxK x)
    exact exec_changeInputs (f := { key := some keys }) (fun h => absurd h hreads) (fun _ _ _ => rfl) fun _ _ => rfl

/-! ## The timers (R28, R193) -/

/-- DT is written by FX15 and ST by FX18 only. -/
theorem Wrote.timer_cases {i : Instr} {s u : State} (h : Wrote s i u) :
    (u.dt = s.dt ∨ ∃ x, i = .ldDtVx x) ∧ (u.st = s.st ∨ ∃ x, i = .ldStVx x) := by
  cases h with
  | @delayTimer x => exact ⟨.inr ⟨x, rfl⟩, .inl rfl⟩
  | @soundTimer x => exact ⟨.inl rfl, .inr ⟨x, rfl⟩⟩
  | _ => exact ⟨.inl rfl, .inl rfl⟩

/-- An instruction that changes a timer is the one that loads it (R191, R192). -/
theorem exec_timer_cases {i : Instr} {s t : State} (h : exec i s = .next t) :
    (t.dt = s.dt ∨ ∃ x, i = .ldDtVx x) ∧ (t.st = s.st ∨ ∃ x, i = .ldStVx x) := by
  obtain ⟨u, target, hu, rfl⟩ | ⟨c, -, rfl⟩ | ⟨x, -, -, rfl⟩ := exec_next_cases h
  · exact hu.timer_cases
  · exact ⟨.inl rfl, .inl rfl⟩
  · exact ⟨.inl rfl, .inl rfl⟩

/-- TICK in a core that is not halted counts both timers down and reports the end of the sound (R193). -/
theorem runCommand_tick_of_not_halted {s : State} (hrun : s.status ≠ .halted) : runCommand .tick s = .next
    { s with dt := timerDown s.dt, st := timerDown s.st, report := if s.st = 1 then some .soundEdge else none } :=
  if_neg hrun

/-- TICK in a halted core only clears the report (R208). -/
theorem runCommand_tick_of_halted {s : State} (h : s.status = .halted) : runCommand .tick s = .next s.quiet := if_pos h

/-- Settles O21: of what an instruction can write, the two loads alone touch a timer, and no instruction reads ST. -/
theorem timersReadAndWritten : Obligations.TimersReadAndWritten := by
  refine ⟨fun i s t h => ?_, fun x s => ⟨?_, ?_, ?_⟩, fun i s b hi => ?_, fun _ _ _ => rfl, fun s hrun => ?_,
    fun _ => rfl, rfl⟩
  · obtain ⟨hdt, hst⟩ := exec_timer_cases h
    exact ⟨hdt.resolve_left, hst.resolve_left⟩
  · exact ⟨_, exec_ldDtVx x s, rfl⟩
  · exact ⟨_, exec_ldStVx x s, rfl⟩
  · exact ⟨_, exec_ldVxDt x s, by simp⟩
  · exact exec_changeInputs (f := { st := some b }) (fun _ => rfl) (fun _ _ _ => rfl) fun x e => absurd e (hi x)
  · exact ⟨_, runCommand_tick_of_not_halted hrun, timerDown_toNat s.dt, timerDown_toNat s.st⟩

/-- Settles O30: TICK outside Halted counts down, and 1 is the only value of ST from which it goes to 0. -/
theorem tickCountsDown : Obligations.TickCountsDown := by
  intro s
  by_cases hs : s.status = .halted
  · have he := runCommand_tick_of_halted hs
    exact ⟨_, he, tickCommand_frame he, fun hrun => absurd hs hrun, fun _ => ⟨rfl, rfl, rfl⟩⟩
  · have he := runCommand_tick_of_not_halted hs
    refine ⟨_, he, tickCommand_frame he, fun _ => ⟨timerDown_toNat s.dt, timerDown_toNat s.st, fun h1 => ?_,
      fun h1 => if_neg h1⟩, fun h => absurd h hs⟩
    exact ⟨if_pos h1, by simp [h1, timerDown]⟩

/-! ## Halted (R207, R208) -/

/-- STEP, TICK and LOAD in a halted core only clear the report. -/
theorem runCommand_of_halted {s : State} {c : Command} (h : s.status = .halted)
    (hc : (∃ r, c = .step r) ∨ c = .tick ∨ ∃ bytes, c = .load bytes) : runCommand c s = .next s.quiet := by
  obtain ⟨r, rfl⟩ | rfl | ⟨bytes, rfl⟩ := hc
  · exact stepCommand_of_halted r h
  · exact runCommand_tick_of_halted h
  · exact if_pos h

/-- Settles O10: three of the commands clear the report and KEY sets its key. -/
theorem haltedCoreIgnoresCommands : Obligations.HaltedCoreIgnoresCommands := fun s h =>
  ⟨fun _ hc => ⟨_, runCommand_of_halted h hc, rfl, s.setReport_frame none⟩, keyCommand_effect s⟩

/-- Settles O11: no command but RESET touches status, fault_cause or pc of a halted core. -/
theorem onlyResetLeavesHalted : Obligations.OnlyResetLeavesHalted := by
  intro s t c h ht
  cases c with
  | reset =>
    cases (runCommand_reset s).symm.trans ht
    exact ⟨fun hne => absurd rfl hne, fun _ => rfl⟩
  | key k pressed =>
    cases (runCommand_key s k pressed).symm.trans ht
    exact ⟨fun _ => ⟨h, rfl, rfl⟩, nofun⟩
  | load bytes =>
    cases (runCommand_of_halted h (.inr (.inr ⟨bytes, rfl⟩))).symm.trans ht
    exact ⟨fun _ => ⟨h, rfl, rfl⟩, nofun⟩
  | step r =>
    cases (runCommand_of_halted h (.inl ⟨r, rfl⟩)).symm.trans ht
    exact ⟨fun _ => ⟨h, rfl, rfl⟩, nofun⟩
  | tick =>
    cases (runCommand_of_halted h (.inr (.inl rfl))).symm.trans ht
    exact ⟨fun _ => ⟨h, rfl, rfl⟩, nofun⟩

/-! ## LOAD (R92) -/

/-- Reading a program copied from an address: its bytes there, the old bytes elsewhere. -/
theorem Memory.read_writeBytes_range (m : Memory) (a b : Nat) (ws : List Byte) :
    (m.writeBytes a ws).read b = if a ≤ b ∧ b < a + ws.length then ws.getD (b - a) 0 else m.read b := by
  by_cases hin : a ≤ b ∧ b < a + ws.length
  · obtain ⟨hle, hlt⟩ := hin
    have hidx : b - a < ws.length := by omega
    rw [Memory.read_writeBytes, if_pos hle, if_pos ⟨hle, hlt⟩]
    simp [hidx]
  · rw [if_neg hin]
    exact Memory.read_writeBytes_outside m a b ws (by omega)

/-- Settles O28: the four ways LOAD can end, by status, launch and length. -/
theorem loadCopiesTheProgram : Obligations.LoadCopiesTheProgram := by
  intro s bytes
  refine ⟨fun hrun hfresh hlen => ?_, fun hrun hfresh hlen => ?_, fun hrun hlaunch => ?_, fun h => ?_⟩
  · obtain ⟨h, -⟩ | ⟨-, h, -⟩ | ⟨-, -, h, -⟩ | ⟨-, -, -, he⟩ := loadCommand_cases bytes s
    · exact absurd h hrun
    · exact absurd hfresh h
    · exact absurd hlen (Nat.not_le.mpr h)
    · exact ⟨_, he, fun a => Memory.read_writeBytes_range s.mem _ a bytes, rfl, rfl,
        (loadCommand_frame he).mono fun p hp => by tauto⟩
  · obtain ⟨h, -⟩ | ⟨-, h, -⟩ | ⟨-, -, -, he⟩ | ⟨-, -, h, -⟩ := loadCommand_cases bytes s
    · exact absurd h hrun
    · exact absurd hfresh h
    · exact ⟨_, he, rfl, s.setReport_frame _⟩
    · exact absurd h (Nat.not_le.mpr hlen)
  · obtain ⟨h, -⟩ | ⟨-, -, he⟩ | ⟨-, h, -⟩ | ⟨-, h, -⟩ := loadCommand_cases bytes s
    · exact absurd h hrun
    · exact he
    · exact absurd h hlaunch
    · exact absurd h hlaunch
  · exact ⟨_, runCommand_of_halted h (.inr (.inr ⟨bytes, rfl⟩)), rfl, s.setReport_frame none⟩

end Sys2Proof.Machine
end

section
/-! SUPPORT. Control transfer: the call, the return, the indexed jump, the skips on registers and keys, and the parked
core (41_control_flow.md; 45_keypad.md R180, R181; 70_reset_and_hazards.md R236). -/

namespace Sys2Proof.Machine

/-! ## Call and return (R111, R112) -/

/-- A push that answers found room, and writes one entry and sp. -/
theorem State.push_eq_some {s u : State} {w : Word} (h : s.push w = some u) :
    ∃ hlt : s.sp.val < Config.stackDepth,
      u = { s with stack := s.stack.set s.sp.val w hlt, sp := ⟨s.sp.val + 1, by omega⟩ } := by
  unfold State.push at h
  split at h
  · exact ⟨‹_›, (Option.some.inj h).symm⟩
  · exact nomatch h

/-- A pop that answers found an entry, and writes sp only. -/
theorem State.pop_eq_some {s u : State} {w : Word} (h : s.pop = some (w, u)) :
    ∃ hne : s.sp.val ≠ 0, w = s.stack[s.sp.val - 1]'(by omega) ∧ u = { s with sp := ⟨s.sp.val - 1, by omega⟩ } := by
  unfold State.pop at h
  split at h
  · exact nomatch h
  · rename_i hne
    obtain ⟨hw, hu⟩ := Prod.mk.inj (Option.some.inj h)
    exact ⟨hne, hw.symm, hu.symm⟩

/-- A push changes sp and the entry it writes only. -/
theorem State.push_frame {s u : State} {w : Word} (h : s.sp.val < 16) (hpush : s.push w = some u) :
    OnlyChanges s u (fun p => p = .sp ∨ p = .stackEntry ⟨s.sp.val, h⟩) := by
  obtain ⟨_, rfl⟩ := State.push_eq_some hpush
  intro p hp
  cases p with
  | sp => exact absurd (.inl rfl) hp
  | stackEntry k =>
    have hne : s.sp.val ≠ k.val := fun e => hp (.inr (congrArg Part.stackEntry (Fin.ext e.symm)))
    exact Vector.getElem_set_ne h k.isLt hne
  | _ => rfl

/-- A pop changes sp only. -/
theorem State.pop_frame {s u : State} {w : Word} (hpop : s.pop = some (w, u)) : OnlyChanges s u (fun p => p = .sp) := by
  obtain ⟨_, _, rfl⟩ := State.pop_eq_some hpop
  intro p hp
  cases p with
  | sp => exact absurd rfl hp
  | _ => rfl

/-- An instruction that answers a fault halts the core with that cause and changes nothing else (R205, R206). -/
theorem exec_raise_effect {i : Instr} {s : State} {c : FaultCause} (h : exec i s = .next (s.raise c)) :
    ∃ t, exec i s = .next t ∧ t.status = .halted ∧ t.faultCause = c ∧
      OnlyChanges s t (fun p => p = .status ∨ p = .faultCause) := ⟨_, h, rfl, rfl, State.raise_frame s c⟩

/-- Settles O33: the push answers where sp is below 16, and a full stack raises StackOverflow. -/
theorem callPushesTheReturnAddress : Obligations.CallPushesTheReturnAddress := by
  refine ⟨decodesA_call, fun nnn s => ⟨fun h => ?_, fun h => exec_raise_effect (exec_call_of_full nnn h)⟩⟩
  have hpush := State.push_eq s (s.pc + 2) h
  exact ⟨_, exec_call_of_push nnn hpush, Vector.getElem_set_self h, rfl, zext16_toNat (by decide) nnn, rfl,
    State.retire_frame _ (State.push_frame h hpush)⟩

/-- Settles O34: the pop answers where sp is above 0, and an empty stack raises StackUnderflow. -/
theorem returnPopsIntoPc : Obligations.ReturnPopsIntoPc := by
  refine ⟨decodesZ_ret, fun s => ⟨fun h => ?_, fun h => exec_raise_effect (exec_ret_of_empty h)⟩⟩
  have hpop := State.pop_eq s (Nat.ne_of_gt h)
  exact ⟨_, exec_ret_of_pop hpop, rfl, Nat.sub_add_cancel h, rfl, State.retire_frame _ (State.pop_frame hpop)⟩

/-- Frames compose. -/
theorem OnlyChanges.trans {s t u : State} {c d : Part → Prop} (h : OnlyChanges s t c) (h' : OnlyChanges t u d) :
    OnlyChanges s u (fun p => c p ∨ d p) := fun p hp => by
  obtain ⟨hc, hd⟩ := not_or.mp hp
  have hst := h p hc
  have htu := h' p hd
  cases p <;> exact htu.trans hst

/-- A pop after a push gives the word pushed and puts sp back. -/
theorem State.pop_of_push {s u : State} {w : Word} (hpush : s.push w = some u) (target : Word) :
    (u.retire target).pop = some (w, State.retire { u with sp := s.sp } target) := by
  obtain ⟨hlt, rfl⟩ := State.push_eq_some hpush
  rw [State.pop_eq _ (Nat.succ_ne_zero s.sp.val)]
  exact congrArg some (Prod.ext (Vector.getElem_set_self hlt) rfl)

/-- Settles O35: the entry the return pops is the one the call pushed, and sp is back where it was. -/
theorem returnAfterCallResumes : Obligations.ReturnAfterCallResumes := by
  intro nnn s h
  have hpush := State.push_eq s (s.pc + 2) h
  have hpop := State.pop_of_push hpush (zext16 nnn)
  have hframe := (State.retire_frame (zext16 nnn) (State.push_frame h hpush)).trans
    (State.retire_frame (s.pc + 2) (State.pop_frame hpop))
  refine ⟨_, _, exec_call_of_push nnn hpush, exec_ret_of_pop hpop, rfl, rfl, OnlyChanges.drop (q := .sp) ?_ rfl⟩
  exact hframe.mono fun p hp => by tauto

/-! ## Jumps and skips (R113, R116, R117) -/

theorem exec_jpV0 (nnn : Addr12) (s : State) :
    exec (.jpV0 nnn) s = .next (s.retire (zext16 nnn + zext16 (s.getV 0))) := rfl

/-- NNN + V0 fits in 16 bits: the sum is not reduced (92 D11). -/
theorem zext16_add_toNat (nnn : Addr12) (b : Byte) : (zext16 nnn + zext16 b).toNat = nnn.toNat + b.toNat := by
  have hn : nnn.toNat < 4096 := nnn.isLt
  have hb : b.toNat < 256 := b.isLt
  rw [BitVec.toNat_add, zext16_toNat (by decide), zext16_toNat (by decide)]
  omega

/-- Settles O36: family 0xB decodes to the jump, whose target is a sum below 65536. -/
theorem jumpV0AddsV0 : Obligations.JumpV0AddsV0 :=
  ⟨decodesA_jpV0, fun nnn s => ⟨_, exec_jpV0 nnn s, zext16_add_toNat nnn (s.getV 0), rfl,
    State.retire_frame_pc_status s _⟩⟩

theorem exec_seReg (x y : RegIdx) (s : State) : exec (.seReg x y) s = .next (s.skipIf (s.getV x == s.getV y)) := rfl

theorem exec_sneReg (x y : RegIdx) (s : State) : exec (.sneReg x y) s = .next (s.skipIf (s.getV x != s.getV y)) := rfl

/-- Settles O38: both instructions answer a skip, taken when the comparison of VX and VY says so. -/
theorem skipsOnRegisters : Obligations.SkipsOnRegisters := by
  refine ⟨decodesXY_seReg, decodesXY_sneReg, fun op hfamily hn => ?_, fun x y s => ⟨?_, ?_⟩⟩
  · exact (decode_none_iff_family op).mpr (by tauto)
  · exact exec_skip_effect (exec_seReg x y s) beq_iff_eq.mpr beq_eq_false_iff_ne.mpr
  · exact exec_skip_effect (exec_sneReg x y s) bne_iff_ne.mpr bne_eq_false_iff_eq.mpr

/-! ## Skips on a key (R180, R181, R183) -/

/-- Settles O56: with VX at most 15 both answer a skip on the level of key VX, and above it both raise a fault. -/
theorem keySkips : Obligations.KeySkips := by
  refine ⟨decodesXS_skp, decodesXS_sknp, fun x s => ⟨fun h => ⟨?_, ?_⟩, fun h i hi => ?_⟩⟩
  · exact exec_skip_effect (exec_skp_of_lt h) id id
  · exact exec_skip_effect (exec_sknp_of_lt h) (fun hk => by rw [hk]; rfl) (fun hk => by rw [hk]; rfl)
  · obtain rfl | rfl := hi
    · exact exec_raise_effect (exec_skp_of_gt h)
    · exact exec_raise_effect (exec_sknp_of_gt h)

/-! ## The parked core (R236) -/

/-- A state that agrees with a parked one in status, pc and memory is parked. -/
theorem State.Parked.of_same {s t : State} (h : s.Parked) (hstatus : t.status = s.status) (hpc : t.pc = s.pc)
    (hmem : t.mem = s.mem) : t.Parked := by
  rw [State.Parked, hstatus, hpc, hmem]
  exact h

/-- Two bytes as a number, the first the high one (R52). -/
theorem opcodeOfBytes_toNat (hi lo : Byte) : (opcodeOfBytes hi lo).toNat = hi.toNat * 256 + lo.toNat := by
  rw [opcodeOfBytes, BitVec.toNat_append, Nat.shiftLeft_eq, Nat.mul_comm, ← Nat.two_pow_add_eq_or_of_lt lo.isLt,
    Nat.mul_comm]

/-- The two bytes 0x1N NN at pc are the jump to pc (R52, R110). -/
theorem State.Parked.decode_fetchOpcode {s : State} (h : s.Parked) :
    ∃ nnn : Addr12, decode s.fetchOpcode = some (.jp nnn) ∧ zext16 nnn = s.pc := by
  obtain ⟨-, hpc, hhi, hlo⟩ := h
  have hop : s.fetchOpcode.toNat = 0x1000 + s.pc.toNat := by
    rw [State.fetchOpcode, Memory.readOpcode, opcodeOfBytes_toNat]
    omega
  refine ⟨fieldNNN s.fetchOpcode, decode_of_family_jp ?_, ?_⟩
  · apply BitVec.eq_of_toNat_eq
    rw [fieldFamily_toNat, hop]
    show _ = 1
    omega
  · apply BitVec.eq_of_toNat_eq
    rw [zext16_toNat (by decide), fieldNNN_toNat, hop]
    omega

/-- A STEP of a parked core jumps to its own pc, so it changes the latch and the model's own report, rand and launch
only. -/
theorem stepCommand_of_parked {s : State} (h : s.Parked) (rand : Byte) :
    stepCommand rand s = .next (s.fetched rand).endStep := by
  obtain ⟨nnn, hdec, htarget⟩ := h.decode_fetchOpcode
  obtain ⟨hrunning, hpc, -, -⟩ := h
  have hself : (s.fetched rand).retire s.pc = s.fetched rand := by
    rw [State.retire, ← hrunning]
    rfl
  rw [stepCommand_of_decode_some rand (by simp [hrunning]) hpc hdec, exec_jp, htarget]
  exact congrArg (endStepResult ∘ Host.Outcome.next) hself

/-- Settles O25: the STEP jumps to its own pc, and the frames of TICK and KEY leave status, pc and memory alone. -/
theorem parkedCoreStaysParked : Obligations.ParkedCoreStaysParked := by
  intro s h
  obtain ⟨hrunning, -⟩ := id h
  have hrun : s.status ≠ .halted := by simp [hrunning]
  refine ⟨fun rand => ⟨_, stepCommand_of_parked h rand, h.of_same rfl rfl rfl, ?_⟩,
    ⟨_, runCommand_tick_of_not_halted hrun, h.of_same rfl rfl rfl, ?_⟩, fun k b =>
    ⟨_, runCommand_key s k b, h.of_same rfl rfl rfl, keyCommand_frame (runCommand_key s k b)⟩⟩
  · exact (State.endStep_frame rand s.fetchOpcode (OnlyChanges.refl _ fun _ => False)).mono fun p hp => by tauto
  · exact tickCommand_frame (runCommand_tick_of_not_halted hrun)

end Sys2Proof.Machine
end

section
/-! SUPPORT. The five flag instructions: result, flag, and the exact arithmetic law of the two together
(42_alu.md R130, R137 to R143; 92 D7). -/

namespace Sys2Proof.Machine

theorem exec_addReg (x y : RegIdx) (s : State) : exec (.addReg x y) s =
    .next (s.setFlagThenResult x (carryFlag (s.getV x) (s.getV y)) (s.getV x + s.getV y)).advance := rfl

theorem exec_sub (x y : RegIdx) (s : State) : exec (.sub x y) s =
    .next (s.setFlagThenResult x (noBorrowFlag (s.getV x) (s.getV y)) (s.getV x - s.getV y)).advance := rfl

theorem exec_subn (x y : RegIdx) (s : State) : exec (.subn x y) s =
    .next (s.setFlagThenResult x (noBorrowFlag (s.getV y) (s.getV x)) (s.getV y - s.getV x)).advance := rfl

theorem exec_shr (x y : RegIdx) (s : State) : exec (.shr x y) s =
    .next (s.setFlagThenResult x (shiftedOutLow (s.getV x)) (s.getV x >>> 1)).advance := rfl

theorem exec_shl (x y : RegIdx) (s : State) : exec (.shl x y) s =
    .next (s.setFlagThenResult x (shiftedOutHigh (s.getV x)) (s.getV x <<< 1)).advance := rfl

/-- Flag, result and pc + 2 change the destination, VF, pc and status only. -/
theorem State.setFlagThenResult_advance_frame (s : State) (x : RegIdx) (f b : Byte) :
    OnlyChanges s (s.setFlagThenResult x f b).advance
      (fun p => p = .reg x ∨ p = .reg regVF ∨ p = .pc ∨ p = .status) :=
  (State.retire_frame _ (State.setFlagThenResult_frame s x f b)).mono fun _ hp => by tauto

/-- An instruction that answers flag and result completes at pc + 2 with the result in its register and the flag in VF
where that is another register, and changes nothing else but status; `P` and `F` are what holds of the two bytes. -/
theorem exec_flag_effect {i : Instr} {s : State} {x : RegIdx} {f b : Byte} (P F : Byte → Prop)
    (hexec : exec i s = .next (s.setFlagThenResult x f b).advance) (hb : P b) (hf : F f) :
    ∃ t, exec i s = .next t ∧ P (t.getV x) ∧ (x ≠ regVF → F (t.getV regVF)) ∧ t.pc = s.pc + 2 ∧ t.status = .running ∧
      OnlyChanges s t (fun p => p = .reg x ∨ p = .reg regVF ∨ p = .pc ∨ p = .status) := by
  refine ⟨_, hexec, ?_, fun hx => ?_, rfl, rfl, State.setFlagThenResult_advance_frame s x f b⟩
  · rwa [State.advance_getV, State.getV_setFlagThenResult, if_pos rfl]
  · rwa [State.advance_getV, State.getV_setFlagThenResult_vf s f b hx]

/-! ## The flags as numbers (R137 to R141) -/

theorem carryFlag_eq (a b : Byte) : carryFlag a b = if 255 < a.toNat + b.toNat then 1 else 0 := by
  simp only [carryFlag, flagByte, decide_eq_true_eq, gt_iff_lt]

theorem noBorrowFlag_eq (a b : Byte) : noBorrowFlag a b = if b.toNat ≤ a.toNat then 1 else 0 := by
  simp only [noBorrowFlag, flagByte, decide_eq_true_eq]

/-- A flag as a number. -/
theorem flagByte_toNat (b : Bool) : (flagByte b).toNat = b.toNat := by
  cases b <;> rfl

/-- Bit 0 is the remainder by 2. -/
theorem shiftedOutLow_toNat (a : Byte) : (shiftedOutLow a).toNat = a.toNat % 2 := by
  rw [shiftedOutLow, flagByte_toNat, BitVec.getLsbD, Nat.toNat_testBit]
  simp

/-- Bit 7 is the quotient by 128. -/
theorem shiftedOutHigh_toNat (a : Byte) : (shiftedOutHigh a).toNat = a.toNat / 128 := by
  have ha : a.toNat < 256 := a.isLt
  rw [shiftedOutHigh, flagByte_toNat, BitVec.getLsbD, Nat.toNat_testBit]
  omega

theorem toNat_sub_byte (a b : Byte) : (a - b).toNat = (a.toNat + 256 - b.toNat) % 256 := by
  have hb : b.toNat < 256 := b.isLt
  rw [BitVec.toNat_sub]
  omega

theorem toNat_shiftRight_one (a : Byte) : (a >>> 1).toNat = a.toNat / 2 := by
  rw [BitVec.toNat_ushiftRight, Nat.shiftRight_eq_div_pow]

theorem toNat_shiftLeft_one (a : Byte) : (a <<< 1).toNat = a.toNat * 2 % 256 := by
  rw [BitVec.toNat_shiftLeft, Nat.shiftLeft_eq]

/-- Settles O41: the instruction answers the carry and the sum. -/
theorem addSetsCarry : Obligations.AddSetsCarry :=
  ⟨decodesXY_addReg, fun x y s =>
    exec_flag_effect (fun v => v.toNat = ((s.getV x).toNat + (s.getV y).toNat) % 256)
      (· = if 255 < (s.getV x).toNat + (s.getV y).toNat then 1 else 0) (exec_addReg x y s) (BitVec.toNat_add _ _)
      (carryFlag_eq _ _)⟩

/-- Settles O42: each answers the no-borrow flag and the difference, of its own minuend and subtrahend. -/
theorem subtractionsSetNoBorrow : Obligations.SubtractionsSetNoBorrow := by
  refine ⟨decodesXY_sub, decodesXY_subn, fun x y s => ⟨?_, ?_⟩⟩
  · exact exec_flag_effect (fun v => v.toNat = ((s.getV x).toNat + 256 - (s.getV y).toNat) % 256)
      (· = if (s.getV y).toNat ≤ (s.getV x).toNat then 1 else 0) (exec_sub x y s) (toNat_sub_byte _ _)
      (noBorrowFlag_eq _ _)
  · exact exec_flag_effect (fun v => v.toNat = ((s.getV y).toNat + 256 - (s.getV x).toNat) % 256)
      (· = if (s.getV x).toNat ≤ (s.getV y).toNat then 1 else 0) (exec_subn x y s) (toNat_sub_byte _ _)
      (noBorrowFlag_eq _ _)

/-- Settles O43: each answers the bit shifted out and the byte shifted. -/
theorem shiftsSetTheBitOut : Obligations.ShiftsSetTheBitOut := by
  refine ⟨decodesXY_shr, decodesXY_shl, fun x y s => ⟨?_, ?_⟩⟩
  · exact exec_flag_effect (·.toNat = (s.getV x).toNat / 2) (·.toNat = (s.getV x).toNat % 2) (exec_shr x y s)
      (toNat_shiftRight_one _) (shiftedOutLow_toNat _)
  · exact exec_flag_effect (·.toNat = (s.getV x).toNat * 2 % 256) (·.toNat = (s.getV x).toNat / 128) (exec_shl x y s)
      (toNat_shiftLeft_one _) (shiftedOutHigh_toNat _)

/-! ## Flag and result together (R143) -/

/-- Flag and result of a state an instruction answered, where VF is not the destination. -/
theorem getV_of_exec_flag {i : Instr} {s t : State} {x : RegIdx} {f b : Byte} (hx : x ≠ regVF)
    (hexec : exec i s = .next (s.setFlagThenResult x f b).advance) (h : exec i s = .next t) :
    t.getV regVF = f ∧ t.getV x = b := by
  cases hexec.symm.trans h
  rw [State.advance_getV, State.advance_getV, State.getV_setFlagThenResult_vf s f b hx, State.getV_setFlagThenResult,
    if_pos rfl]
  exact ⟨rfl, rfl⟩

/-- Carry and sum are the exact sum. -/
theorem carryFlag_exact (a b : Byte) : (carryFlag a b).toNat * 256 + (a + b).toNat = a.toNat + b.toNat := by
  have ha : a.toNat < 256 := a.isLt
  have hb : b.toNat < 256 := b.isLt
  rw [BitVec.toNat_add, carryFlag_eq]
  split
  · show 1 * 256 + _ = _
    omega
  · show 0 * 256 + _ = _
    omega

/-- No-borrow and difference are the exact difference. -/
theorem noBorrowFlag_exact (a b : Byte) :
    (a - b).toNat + b.toNat = a.toNat + (1 - (noBorrowFlag a b).toNat) * 256 := by
  have ha : a.toNat < 256 := a.isLt
  have hb : b.toNat < 256 := b.isLt
  rw [toNat_sub_byte, noBorrowFlag_eq]
  split
  · show _ = _ + (1 - 1) * 256
    omega
  · show _ = _ + (1 - 0) * 256
    omega

/-- Settles O44: the law of each operation on the two bytes that are left in VF and VX. -/
theorem flagAndResultAreExact : Obligations.FlagAndResultAreExact := by
  intro x y s t hx
  refine ⟨fun h => ?_, fun h => ?_, fun h => ?_, fun h => ?_, fun h => ?_⟩
  · obtain ⟨hf, hb⟩ := getV_of_exec_flag hx (exec_addReg x y s) h
    rw [hf, hb]
    exact carryFlag_exact _ _
  · obtain ⟨hf, hb⟩ := getV_of_exec_flag hx (exec_sub x y s) h
    rw [hf, hb]
    exact noBorrowFlag_exact _ _
  · obtain ⟨hf, hb⟩ := getV_of_exec_flag hx (exec_subn x y s) h
    rw [hf, hb]
    exact noBorrowFlag_exact _ _
  · obtain ⟨hf, hb⟩ := getV_of_exec_flag hx (exec_shr x y s) h
    rw [hf, hb, toNat_shiftRight_one, shiftedOutLow_toNat]
    omega
  · obtain ⟨hf, hb⟩ := getV_of_exec_flag hx (exec_shl x y s) h
    rw [hf, hb, toNat_shiftLeft_one, shiftedOutHigh_toNat]
    omega

end Sys2Proof.Machine
end

section
/-! SUPPORT. The index register and memory: FX1E and FX29, the stores FX33 and FX55, the load FX65, and the fetch of
what was stored (43_index_memory.md; 20_memory.md section 3). -/

namespace Sys2Proof.Machine

/-! ## FX1E and FX29 (R151, R152) -/

theorem exec_addI (x : RegIdx) (s : State) :
    exec (.addI x) s = .next { s with i := s.i + zext16 (s.getV x) }.advance := rfl

theorem exec_ldF (x : RegIdx) (s : State) :
    exec (.ldF x) s = .next { s with i := Config.fx29Base + zext16 (s.getV x) * 5 }.advance := rfl

/-- The address FX29 computes, modulo 65536. -/
theorem fontAddress_toNat (base : Word) (b : Byte) :
    (base + zext16 b * 5).toNat = (base.toNat + b.toNat * 5) % 65536 := by
  rw [BitVec.toNat_add, BitVec.toNat_mul, zext16_toNat (by decide)]
  exact Nat.add_mod_mod _ _ _

/-- Settles O47: both answer one write of the index register, of a sum modulo 65536. -/
theorem addIndexAndFontAddress : Obligations.AddIndexAndFontAddress := by
  refine ⟨decodesXS_addI, decodesXS_ldF, rfl, fun x s => ⟨?_, ?_⟩⟩
  · refine exec_setIndex_effect (exec_addI x s) ?_
    rw [BitVec.toNat_add, zext16_toNat (by decide)]
  · exact exec_setIndex_effect (exec_ldF x s) (fontAddress_toNat _ _)

/-! ## Stores (R153, R154) -/

theorem State.effAddr_zero (s : State) : s.effAddr 0 = s.i.toNat := rfl

/-- The range check of an access to k + 1 bytes from I on, on its last address (R55). -/
theorem State.inRange_succ_iff (s : State) (k : Nat) :
    inRange (s.effAddr 0) (k + 1) = true ↔ s.i.toNat + k ≤ 0xFFF := by
  rw [inRange_iff (Nat.succ_pos k), State.effAddr_zero]
  simp only [Config.memSize]
  omega

/-- What a byte at an address of a range just written reads as, by its place in the range. -/
theorem Memory.read_writeBytes_add (m : Memory) (a k : Nat) (ws : List Byte) :
    (m.writeBytes a ws).read (a + k) = ws.getD k (m.read (a + k)) := by
  rw [Memory.read_writeBytes, if_pos (Nat.le_add_right a k), Nat.add_sub_cancel_left]

/-- An instruction that stores bytes from I on completes at pc + 2, and changes those bytes, pc and status only. -/
theorem State.store_advance_frame (s : State) (ws : List Byte) :
    OnlyChanges s { s with mem := s.mem.writeBytes (s.effAddr 0) ws }.advance
      (fun p => p = .pc ∨ p = .status ∨ ∃ k, k < ws.length ∧ p = .memByte (s.i.toNat + k)) :=
  State.retire_frame _ (State.store_frame s (s.effAddr 0) ws)

/-- The three digits are numbers below 10, so each is the byte stored (R153). -/
theorem bcdDigits_toNat (b : Byte) : (BitVec.ofNat 8 (b.toNat / 100)).toNat = b.toNat / 100 ∧
    (BitVec.ofNat 8 (b.toNat / 10 % 10)).toNat = b.toNat / 10 % 10 ∧
    (BitVec.ofNat 8 (b.toNat % 10)).toNat = b.toNat % 10 := by
  have hb : b.toNat < 256 := b.isLt
  simp only [BitVec.toNat_ofNat]
  omega

/-- Settles O48: with the range check passed the digits are written from I on, and else MemFault is raised. -/
theorem bcdDigitsAreStored : Obligations.BcdDigitsAreStored := by
  refine ⟨decodesXS_ldB, fun x s => ⟨fun h => ?_, fun h => ?_⟩⟩
  · have hexec := exec_ldB_of_inRange (x := x) ((s.inRange_succ_iff 2).mpr h)
    have hread := fun k => Memory.read_writeBytes_add s.mem (s.effAddr 0) k (bcdDigits (s.getV x))
    obtain ⟨h0, h1, h2⟩ := bcdDigits_toNat (s.getV x)
    exact ⟨_, hexec, (congrArg _ (hread 0)).trans h0, (congrArg _ (hread 1)).trans h1, (congrArg _ (hread 2)).trans h2,
      rfl, rfl, State.store_advance_frame s _⟩
  · exact exec_raise_effect (exec_ldB_of_not_inRange ((s.inRange_succ_iff 2).not.mpr (Nat.not_le.mpr h)))

/-- After FX55 the byte at I + k is V[k], for k up to X (R154). -/
theorem read_writeBytes_regsUpTo (s : State) {x k : RegIdx} (h : k.val ≤ x.val) :
    (s.mem.writeBytes (s.effAddr 0) (s.regsUpTo x)).read (s.i.toNat + k.val) = s.getV k := by
  rw [State.effAddr_zero, Memory.read_writeBytes_add, State.regsUpTo_getD s x k h]

/-- Settles O49: with the range check passed V0 to VX are written from I on, and else MemFault is raised. -/
theorem registersAreStored : Obligations.RegistersAreStored := by
  refine ⟨decodesXS_stRegs, fun x s => ⟨fun h => ?_, fun h => ?_⟩⟩
  · refine ⟨_, exec_stRegs_of_inRange ((s.inRange_succ_iff x.val).mpr h), fun k => read_writeBytes_regsUpTo s, rfl, rfl,
      (State.store_advance_frame s _).mono fun p hp => ?_⟩
    simpa only [State.regsUpTo_length, Nat.lt_succ_iff] using hp
  · exact exec_raise_effect (exec_stRegs_of_not_inRange ((s.inRange_succ_iff x.val).not.mpr (Nat.not_le.mpr h)))

/-- Settles O26: the first two bytes stored are V0 and V1, at the two addresses the next fetch reads. -/
theorem storedOpcodeIsFetchedNext : Obligations.StoredOpcodeIsFetchedNext := by
  intro s x hx hi hrange
  have hnext : (s.pc + 2).toNat = s.pc.toNat + 2 := by
    rw [BitVec.toNat_add]
    exact Nat.mod_eq_of_lt (by show s.pc.toNat + 2 < 65536; omega)
  have hin : s.i.toNat + x.val ≤ 0xFFF := by rw [hi, hnext]; exact hrange
  refine ⟨_, exec_stRegs_of_inRange ((s.inRange_succ_iff x.val).mpr hin), rfl, ?_, ?_⟩
  · rw [State.fetchOk_iff, State.advance_pc, hnext]
    omega
  · rw [State.fetchOpcode, Memory.readOpcode, State.advance_pc, State.advance_mem, ← hi]
    exact congrArg₂ _ (read_writeBytes_regsUpTo s (k := 0) (Nat.zero_le _)) (read_writeBytes_regsUpTo s (k := 1) hx)

/-! ## Loads (R155) -/

/-- After a range load of bytes read from I on, V[k] is the byte at I + k for k up to X, and its old byte above it
(R155). -/
theorem getV_loadRegs (s : State) (x k : RegIdx) :
    State.getV { s with v := loadRegsFrom s.v 0 (s.mem.readBytes (s.effAddr 0) (x.val + 1)) } k =
      if k.val ≤ x.val then s.mem.read (s.i.toNat + k.val) else s.getV k := by
  show (loadRegsFrom s.v 0 _)[k.val] = _
  rw [loadRegsFrom_getElem, if_pos (Nat.zero_le _), Nat.sub_zero]
  split
  · exact Memory.readBytes_getD _ _ _ _ _ (by omega)
  · exact List.getD_eq_default _ _ (by rw [Memory.readBytes_length]; omega)

/-- A range load changes the registers up to VX only. -/
theorem State.load_frame (s : State) (x : RegIdx) :
    OnlyChanges s { s with v := loadRegsFrom s.v 0 (s.mem.readBytes (s.effAddr 0) (x.val + 1)) }
      (fun p => ∃ k : RegIdx, k.val ≤ x.val ∧ p = .reg k) := fun p hp => by
  cases p with
  | reg k => exact (getV_loadRegs s x k).trans (if_neg fun hk => hp ⟨k, hk, rfl⟩)
  | _ => rfl

/-- Settles O50: with the range check passed V0 to VX are read from I on, and else MemFault is raised. -/
theorem registersAreLoaded : Obligations.RegistersAreLoaded := by
  refine ⟨decodesXS_ldRegs, fun x s => ⟨fun h => ?_, fun h => ?_⟩⟩
  · exact ⟨_, exec_ldRegs_of_inRange ((s.inRange_succ_iff x.val).mpr h),
      fun k hk => (getV_loadRegs s x k).trans (if_pos hk), rfl, rfl, State.retire_frame _ (State.load_frame s x)⟩
  · exact exec_raise_effect (exec_ldRegs_of_not_inRange ((s.inRange_succ_iff x.val).not.mpr (Nat.not_le.mpr h)))

/-- Settles O51: FX65 reads back the bytes FX55 stored, since neither changes I. -/
theorem storedRegistersAreLoadedBack : Obligations.StoredRegistersAreLoadedBack := by
  intro x s t v h ht
  have hin := (s.inRange_succ_iff x.val).mpr h
  cases (exec_stRegs_of_inRange hin).symm.trans ht
  refine ⟨_, exec_ldRegs_of_inRange hin, fun k hk => ?_⟩
  exact ((getV_loadRegs _ x k).trans (if_pos hk)).trans (read_writeBytes_regsUpTo s hk)

end Sys2Proof.Machine
end

section
/-! SUPPORT. The sprite as a whole instruction: the pixels it inverts, the collision in VF, the fault past the end of
memory, and two draws at one place (44_display.md R171; 95_test_vectors.md S5). -/

namespace Sys2Proof.Machine

/-- The range check of DXYN: no byte, or the last one at 0xFFF at most (R171). -/
theorem inRange_sprite_iff (s : State) (n : BitVec 4) :
    inRange (s.effAddr 0) n.toNat = true ↔ n.toNat = 0 ∨ s.i.toNat + n.toNat - 1 ≤ 0xFFF := by
  rw [inRange, Bool.or_eq_true, beq_iff_eq, decide_eq_true_eq]
  rfl

/-- A covered pixel is a pixel of the framebuffer (R173). -/
theorem SpriteCovers.lt {s : State} {x y : RegIdx} {n : BitVec 4} {k : Nat} (h : SpriteCovers s x y n k) :
    k < 2048 := by
  obtain ⟨row, col, -, -, -, rfl⟩ := h
  exact pixelIndex_lt ((s.getV x).toNat + col) ((s.getV y).toNat + row)

open Classical in
/-- The draw inverts a covered pixel. -/
theorem State.drawn_pixel_of_covers {s : State} {x y : RegIdx} {n : BitVec 4} {k : Nat} (h : SpriteCovers s x y n k) :
    (s.drawn x y n).fb.pixel k = !s.fb.pixel k := by
  rw [State.drawn_pixel, decide_eq_true h, Bool.xor_true]

open Classical in
/-- The draw leaves a pixel that is not covered. -/
theorem State.drawn_pixel_of_not_covers {s : State} {x y : RegIdx} {n : BitVec 4} {k : Nat}
    (h : ¬ SpriteCovers s x y n k) : (s.drawn x y n).fb.pixel k = s.fb.pixel k := by
  rw [State.drawn_pixel, decide_eq_false h, Bool.xor_false]

open Classical in
/-- The draw collides exactly when the sprite covers a pixel that is 1 (R171). -/
theorem State.drawn_hit (s : State) (x y : RegIdx) (n : BitVec 4) :
    (s.drawn x y n).hit = true ↔ ∃ k : Fin 2048, SpriteCovers s x y n k.val ∧ s.fb.pixel k.val = true := by
  have hlength : (s.mem.readBytes (s.effAddr 0) n.toNat).length ≤ 31 := by
    have := n.isLt
    rw [Memory.readBytes_length]
    omega
  have hspec := (Canvas.drawRows_spec (s.getV x).toNat _ (s.getV y).toNat ⟨s.fb, false⟩ hlength).2
  rw [State.drawn, drawSprite, hspec, Bool.false_or, decide_eq_true_eq]
  constructor
  · rintro ⟨r, q, hr, hq, hbit, hpixel⟩
    have hcovers := (spriteCovers_iff s x y n _).mpr ⟨r, q, hr, hq, hbit, rfl⟩
    exact ⟨⟨_, hcovers.lt⟩, hcovers, hpixel⟩
  · rintro ⟨k, hcovers, hpixel⟩
    obtain ⟨r, q, hr, hq, hbit, hk⟩ := (spriteCovers_iff s x y n _).mp hcovers
    exact ⟨r, q, hr, hq, hbit, hk ▸ hpixel⟩

theorem flagByte_of_true {b : Bool} (h : b = true) : flagByte b = 1 := if_pos h

theorem flagByte_of_not {b : Bool} (h : ¬ b = true) : flagByte b = 0 := if_neg h

/-- DXYN that does not fault changes pixels, VF, pc and status only. -/
theorem State.drawn_frame (s : State) (f : FrameBuffer) (b : Byte) :
    OnlyChanges s (State.setV { s with fb := f } regVF b).advance
      (fun p => p = .pc ∨ p = .status ∨ p = .reg regVF ∨ ∃ k, p = .pixel k) :=
  (State.retire_frame _ ((State.setFb_frame s f).trans (State.setV_frame _ regVF b))).mono fun _ hp => by tauto

/-- Settles O53: the draw inverts what the sprite covers and collides on a covered pixel that was 1. -/
theorem spriteInvertsThePixelsItCovers : Obligations.SpriteInvertsThePixelsItCovers := by
  refine ⟨decodesXYN_drw, fun x y n s h => ?_⟩
  have hexec := exec_drw_of_inRange (x := x) (y := y) ((inRange_sprite_iff s n).mpr h)
  refine ⟨_, hexec, fun k hk => State.drawn_pixel_of_covers hk, fun k hk => State.drawn_pixel_of_not_covers hk,
    fun hhit => ?_, fun hmiss => ?_, rfl, rfl, State.drawn_frame s _ _⟩
  · rw [State.advance_getV, State.getV_setV_same]
    exact flagByte_of_true ((s.drawn_hit x y n).mpr hhit)
  · rw [State.advance_getV, State.getV_setV_same]
    exact flagByte_of_not ((s.drawn_hit x y n).not.mpr hmiss)

/-- Settles O54: the range check fails, and MemFault is raised before anything is drawn. -/
theorem spriteOutsideMemoryFaults : Obligations.SpriteOutsideMemoryFaults := by
  intro x y n s hn hi
  refine exec_raise_effect (exec_drw_of_not_inRange ((inRange_sprite_iff s n).not.mpr ?_))
  omega

/-! ## Two draws at one place (S5) -/

/-- The pixels a sprite covers are fixed by memory, I, VX and VY. -/
theorem spriteCovers_congr {s t : State} {x y : RegIdx} {n : BitVec 4} (hmem : t.mem = s.mem) (hi : t.i = s.i)
    (hx : t.getV x = s.getV x) (hy : t.getV y = s.getV y) (k : Nat) :
    SpriteCovers t x y n k ↔ SpriteCovers s x y n k := by
  rw [SpriteCovers, SpriteCovers, hmem, hi, hx, hy]

theorem flagByte_eq_one_iff (b : Bool) : flagByte b = 1 ↔ b = true := by
  cases b <;> decide

/-- Drawing what covers the same pixels on a framebuffer already drawn on gives the first framebuffer back. -/
theorem State.drawn_twice_pixel {s t : State} {x y : RegIdx} {n : BitVec 4} (hfb : t.fb = (s.drawn x y n).fb)
    (hcovers : ∀ k, SpriteCovers t x y n k ↔ SpriteCovers s x y n k) (k : Nat) :
    (t.drawn x y n).fb.pixel k = s.fb.pixel k := by
  by_cases hk : SpriteCovers s x y n k
  · rw [State.drawn_pixel_of_covers ((hcovers k).mpr hk), hfb, State.drawn_pixel_of_covers hk, Bool.not_not]
  · rw [State.drawn_pixel_of_not_covers (mt (hcovers k).mp hk), hfb, State.drawn_pixel_of_not_covers hk]

/-- On a clear framebuffer a draw finds no pixel that is 1. -/
theorem State.drawn_hit_of_clear {s : State} (hclear : s.fb = FrameBuffer.clear) (x y : RegIdx) (n : BitVec 4) :
    ¬ (s.drawn x y n).hit = true := by
  rw [State.drawn_hit, hclear]
  simp

/-- The second draw on a framebuffer that was clear collides exactly when the sprite covers a pixel. -/
theorem State.drawn_twice_hit {s t : State} {x y : RegIdx} {n : BitVec 4} (hfb : t.fb = (s.drawn x y n).fb)
    (hcovers : ∀ k, SpriteCovers t x y n k ↔ SpriteCovers s x y n k) (hclear : s.fb = FrameBuffer.clear) :
    (t.drawn x y n).hit = true ↔ ∃ k : Fin 2048, SpriteCovers s x y n k.val := by
  rw [State.drawn_hit]
  refine exists_congr fun k => ?_
  rw [hcovers, hfb, and_iff_left_iff_imp]
  intro hk
  rw [State.drawn_pixel_of_covers hk, hclear, FrameBuffer.pixel_clear, Bool.not_false]

/-- Settles O55: the second draw covers the same pixels, so it inverts them back, and finds each of them 1 where the
first found all of them 0. -/
theorem spriteDrawnTwiceRestores : Obligations.SpriteDrawnTwiceRestores := by
  intro x y n s t u hx hy ht hrun hu
  obtain ⟨hr, hi, hmem, hV⟩ := exec_drw_completes ht hrun
  have hcovers := spriteCovers_congr (s := s) (t := { t with pc := s.pc }) (n := n) hmem hi (hV x hx) (hV y hy)
  have hr' : inRange (State.effAddr { t with pc := s.pc } 0) n.toNat = true := by
    rw [State.effAddr_zero]
    exact hi ▸ hr
  obtain ⟨hfb, hvf⟩ := exec_drw_answer hr ht
  obtain ⟨hfb', hvf'⟩ := exec_drw_answer hr' hu
  refine ⟨fun k => ?_, fun hclear => ⟨?_, ?_⟩⟩
  · rw [hfb']
    exact State.drawn_twice_pixel hfb hcovers k.val
  · exact hvf.trans (flagByte_of_not (State.drawn_hit_of_clear hclear x y n))
  · rw [hvf', flagByte_eq_one_iff]
    exact State.drawn_twice_hit hfb hcovers hclear

/-! ## Codes of the ports (R30, R31, R200) -/

/-- The codes of the statuses are 0, 1 and 2. -/
theorem Status.code_iff (c : Status) : (c.code = 0 ↔ c = .running) ∧ (c.code = 1 ↔ c = .awaitKey) ∧
    (c.code = 2 ↔ c = .halted) ∧ c.code ≠ 3 := by
  cases c <;> decide

/-- The codes of the causes are 0 to 5. -/
theorem FaultCause.code_iff (c : FaultCause) : (c.code = 0 ↔ c = .none) ∧ (c.code = 1 ↔ c = .stackOverflow) ∧
    (c.code = 2 ↔ c = .stackUnderflow) ∧ (c.code = 3 ↔ c = .fetchFault) ∧ (c.code = 4 ↔ c = .memFault) ∧
    (c.code = 5 ↔ c = .keyIndexFault) ∧ c.code ≠ 6 ∧ c.code ≠ 7 := by
  cases c <;> decide

/-- Settles O59: the ports read the codes. -/
theorem portCodes : Obligations.PortCodes := fun s => by
  obtain ⟨h0, h1, h2, h3⟩ := s.status.code_iff
  exact ⟨h0, h1, h2, h3, s.faultCause.code_iff⟩

end Sys2Proof.Machine
end
